-- ==== Sys2Proof/Word.lean ====
section
/-! DEFINITION. The word types of the register image codec: an image byte, a 16-bit settings or read register,
the 32-bit command word (00_scope.md R4, R5; 30_encoding.md R56). -/

namespace Sys2Proof

/-- A byte of the register image: 8 bits, a number 0..255 (R5). -/
abbrev Byte := BitVec 8

/-- A settings register, a 16-bit view register or RDATA (R4: SW = 16, RDATA_W = 16). -/
abbrev Half := BitVec 16

/-- A command word: one 32-bit number, with no byte order of its own (R56, R34). -/
abbrev Word := BitVec 32

end Sys2Proof
end

