-- ==== Sys2Proof/Config.lean ====
section
/-! DEFINITION. The constants the spec fixes (00_scope.md R3) and the implementation parameters at the values the
spec gives them (R4). Nothing here is a free value: 93_implementation_defined.md lists no behaviour whose treatment
is `any value` inside the model. BUS_BINDING has no constant, since no rule depends on it (R4). -/

namespace Sys2Proof.Config

/-- IMG_LEN (R3): the image has exactly 186 bytes, indexed 0..185. -/
@[simp] abbrev imgLen : Nat := 186
/-- BASE_ADDR (R3): the device register address of image index 0. -/
@[simp] abbrev baseAddr : Nat := 0x8047
/-- END_ADDR (R3): the device register address of image index 185. -/
@[simp] abbrev endAddr : Nat := 0x8100
/-- CSUM_SPAN (R3): the checksum covers bytes 0..183. -/
@[simp] abbrev csumSpan : Nat := 184

/-- PROTO_VER (R3). -/
@[simp] abbrev protoVer : Int := 0x01
/-- MSW1 (R3). -/
@[simp] abbrev msw1 : Int := 0x00
/-- MSW2 (R3). -/
@[simp] abbrev msw2 : Int := 0x00
/-- SHAKE (R3). -/
@[simp] abbrev shake : Int := 0x03
/-- FRESH (R3): the config-fresh sentinel. -/
@[simp] abbrev fresh : Int := 0x01

/-- RES_MAX (R3): the largest resolution the validator's range test admits. -/
@[simp] abbrev resMax : Int := 4095
/-- NTP_MIN (R3). -/
@[simp] abbrev ntpMin : Int := 1
/-- NTP_MAX (R3). -/
@[simp] abbrev ntpMax : Int := 10
/-- THR_MIN (R3). -/
@[simp] abbrev thrMin : Int := 1

/-- LEN_MAX (R4): the value at which the length counter saturates. -/
@[simp] abbrev lenMax : Nat := 255

/-- The two values parameter THR_ORDER may take (R4, 92_eei_decisions.md D12). -/
inductive ThrOrder where
  /-- `max(1, t) mod 256` -/
  | floorThenTruncate
  /-- `max(1, t mod 256)` -/
  | truncateThenFloor
  deriving DecidableEq, Repr

/-- THR_ORDER at the value R4 and R90 give it. A claim about a touch_threshold outside 0..255 rests on this value
(93_implementation_defined.md U2; log entry 3). -/
@[simp] abbrev thrOrder : ThrOrder := .floorThenTruncate

end Sys2Proof.Config
end

