-- ==== Sys2Proof/Syntax.lean ====
section
/-! DEFINITION. The syntax of command set RIC-1: the names an operand can take and the twelve commands, one
constructor per row of spec/opcode_table.json (30_encoding.md R59). -/

namespace Sys2Proof

/-- The five settings registers S[0..4], in selector order (10_state.md R11). -/
inductive Setting where
  | xMax
  | yMax
  | touchThreshold
  | numTouchPoints
  | filterCoefficient
  deriving DecidableEq, Repr

/-- The eleven entries of the FieldLayout table, which are also the eleven view registers V[0..10], in selector
order (30_encoding.md R50: the entry number equals the view selector; 10_state.md R16). -/
inductive Field where
  | protocolVersion
  | xMax
  | yMax
  | numTouchPoints
  | moduleSwitch1
  | moduleSwitch2
  | shakeCount
  | filterCoefficient
  | touchThreshold
  | checksum
  | configFresh
  deriving DecidableEq, Repr

/-- The twelve assigned opcodes (30_encoding.md R59). -/
inductive Opcode where
  | nop | setf | valid | enc | clrb | pushb | wrb | rdb | dec | rdv | csum | verify
  deriving DecidableEq, Repr

/-- The commands of RIC-1 with their operands (30_encoding.md R58, R59). -/
inductive Instr where
  | nop
  | setf (k : Setting) (imm16 : Half)
  | valid
  | enc
  | clrb
  | pushb (imm8 : Byte)
  | wrb (idx : BitVec 12) (imm8 : Byte)
  | rdb (idx : BitVec 12)
  | dec
  | rdv (k : Field)
  | csum
  | verify
  deriving DecidableEq, Repr

/-- The opcode a command carries. -/
def Instr.opcode : Instr → Opcode
  | .nop => .nop
  | .setf _ _ => .setf
  | .valid => .valid
  | .enc => .enc
  | .clrb => .clrb
  | .pushb _ => .pushb
  | .wrb _ _ => .wrb
  | .rdb _ => .rdb
  | .dec => .dec
  | .rdv _ => .rdv
  | .csum => .csum
  | .verify => .verify

end Sys2Proof
end

