-- ==== Sys2Proof/WellFormed.lean ====
section
/-! DEFINITION. Which terms of `Instr` are commands of RIC-1. The selectors are names, so only the image index of
WRB and RDB has a range left to check (30_encoding.md R58: legal values 0..185). -/

namespace Sys2Proof

/-- Every operand is within its legal range (30_encoding.md R58). -/
def Instr.wellFormed : Instr → Bool
  | .nop => true
  | .setf _ _ => true
  | .valid => true
  | .enc => true
  | .clrb => true
  | .pushb _ => true
  | .wrb idx _ => decide (idx.toNat < Config.imgLen)
  | .rdb idx => decide (idx.toNat < Config.imgLen)
  | .dec => true
  | .rdv _ => true
  | .csum => true
  | .verify => true

end Sys2Proof
end

