-- ==== Sys2Proof/Decode.lean ====
section
/-! DEFINITION. The decoder of 30_encoding.md R60, total on 32-bit words and rejecting by name, and after it the
encoder written from the same tables (R56 to R59). -/

namespace Sys2Proof

/-- The five command formats (R57). -/
inductive Format where
  | z | s | b | x | i
  deriving DecidableEq, Repr

/-- Why a word is illegal: the step of R60 that rejects it. Every one of them raises BadCommand (R61). -/
inductive Illegal where
  /-- step (2): op is 0xC..0xF -/
  | reservedOpcode
  /-- step (4): a must-be-zero field is not zero -/
  | mustBeZero
  /-- step (5): a selector or an index is outside its legal range -/
  | operandRange
  deriving DecidableEq, Repr

/-- What decoding a word gives (R60): a command with its operands, or illegal. -/
inductive Decoded where
  | instr (i : Instr)
  | illegal (why : Illegal)
  deriving DecidableEq, Repr

/-- `op = w[31:28]` (R56). -/
def opField (w : Word) : BitVec 4 := w.extractLsb' 28 4
/-- `a = w[27:16]` (R56). -/
def aField (w : Word) : BitVec 12 := w.extractLsb' 16 12
/-- `imm = w[15:0]` (R56). -/
def immField (w : Word) : Half := w.extractLsb' 0 16
/-- `imm[7:0]`, the byte immediate of PUSHB and WRB (R58). -/
def imm8Of (imm : Half) : Byte := imm.extractLsb' 0 8
/-- `imm[15:8]`, which formats B and X require to be zero (R57). -/
def immHighOf (imm : Half) : Byte := imm.extractLsb' 8 8

/-- The opcode map (R59); 0xC..0xF are reserved. -/
def Opcode.ofBits (op : BitVec 4) : Option Opcode :=
  match op.toNat with
  | 0x0 => some .nop
  | 0x1 => some .setf
  | 0x2 => some .valid
  | 0x3 => some .enc
  | 0x4 => some .clrb
  | 0x5 => some .pushb
  | 0x6 => some .wrb
  | 0x7 => some .rdb
  | 0x8 => some .dec
  | 0x9 => some .rdv
  | 0xA => some .csum
  | 0xB => some .verify
  | _ => none

/-- The format of each opcode (R57, R59). -/
def Opcode.format : Opcode → Format
  | .nop => .z
  | .setf => .s
  | .valid => .z
  | .enc => .z
  | .clrb => .z
  | .pushb => .b
  | .wrb => .x
  | .rdb => .i
  | .dec => .z
  | .rdv => .i
  | .csum => .z
  | .verify => .z

/-- The must-be-zero fields of a format are zero (R57). -/
def Format.zerosOk (f : Format) (a : BitVec 12) (imm : Half) : Bool :=
  match f with
  | .z => a == 0 && imm == 0
  | .s => true
  | .b => a == 0 && immHighOf imm == 0
  | .x => immHighOf imm == 0
  | .i => imm == 0

/-- The settings selectors 0..4 (R58, 10_state.md R11). -/
def Setting.ofSel (a : BitVec 12) : Option Setting :=
  match a.toNat with
  | 0 => some .xMax
  | 1 => some .yMax
  | 2 => some .touchThreshold
  | 3 => some .numTouchPoints
  | 4 => some .filterCoefficient
  | _ => none

/-- The view selectors 0..10 (R58, 10_state.md R16). -/
def Field.ofSel (a : BitVec 12) : Option Field :=
  match a.toNat with
  | 0 => some .protocolVersion
  | 1 => some .xMax
  | 2 => some .yMax
  | 3 => some .numTouchPoints
  | 4 => some .moduleSwitch1
  | 5 => some .moduleSwitch2
  | 6 => some .shakeCount
  | 7 => some .filterCoefficient
  | 8 => some .touchThreshold
  | 9 => some .checksum
  | 10 => some .configFresh
  | _ => none

/-- An image index taken from operand A, when it is legal: 0..185 (R58). -/
def idxOf (a : BitVec 12) : Option (BitVec 12) :=
  if a.toNat < Config.imgLen then some a else none

/-- Steps (5) and (6) of R60: the operands of an opcode, `none` when a selector or an index is out of range. -/
def decodeOperands (op : Opcode) (a : BitVec 12) (imm : Half) : Option Instr :=
  match op with
  | .nop => some .nop
  | .setf => (Setting.ofSel a).map fun k => .setf k imm
  | .valid => some .valid
  | .enc => some .enc
  | .clrb => some .clrb
  | .pushb => some (.pushb (imm8Of imm))
  | .wrb => (idxOf a).map fun idx => .wrb idx (imm8Of imm)
  | .rdb => (idxOf a).map .rdb
  | .dec => some .dec
  | .rdv => (Field.ofSel a).map .rdv
  | .csum => some .csum
  | .verify => some .verify

/-- The decoding procedure of R60 on the three fields, its steps in the rule's order. -/
def decodeFields (op : BitVec 4) (a : BitVec 12) (imm : Half) : Decoded :=
  match Opcode.ofBits op with
  | none => .illegal .reservedOpcode
  | some o =>
    if o.format.zerosOk a imm then
      match decodeOperands o a imm with
      | some i => .instr i
      | none => .illegal .operandRange
    else .illegal .mustBeZero

/-- Decoding, a total function of the word alone (R60). -/
def decode (w : Word) : Decoded := decodeFields (opField w) (aField w) (immField w)

/-- The number of an assigned opcode (R59). -/
def Opcode.code : Opcode → BitVec 4
  | .nop => 0x0
  | .setf => 0x1
  | .valid => 0x2
  | .enc => 0x3
  | .clrb => 0x4
  | .pushb => 0x5
  | .wrb => 0x6
  | .rdb => 0x7
  | .dec => 0x8
  | .rdv => 0x9
  | .csum => 0xA
  | .verify => 0xB

/-- The selector of a settings register (10_state.md R11). -/
def Setting.sel : Setting → BitVec 12
  | .xMax => 0
  | .yMax => 1
  | .touchThreshold => 2
  | .numTouchPoints => 3
  | .filterCoefficient => 4

/-- The selector of a view register (10_state.md R16), which is also its FieldLayout entry number (R50). -/
def Field.sel : Field → BitVec 12
  | .protocolVersion => 0
  | .xMax => 1
  | .yMax => 2
  | .numTouchPoints => 3
  | .moduleSwitch1 => 4
  | .moduleSwitch2 => 5
  | .shakeCount => 6
  | .filterCoefficient => 7
  | .touchThreshold => 8
  | .checksum => 9
  | .configFresh => 10

/-- Operand A of a command: the selector, the index, or zero (R57). -/
def Instr.aOperand : Instr → BitVec 12
  | .nop => 0
  | .setf k _ => k.sel
  | .valid => 0
  | .enc => 0
  | .clrb => 0
  | .pushb _ => 0
  | .wrb idx _ => idx
  | .rdb idx => idx
  | .dec => 0
  | .rdv k => k.sel
  | .csum => 0
  | .verify => 0

/-- The immediate field of a command (R57); a byte immediate has zeros above it. -/
def Instr.immOperand : Instr → Half
  | .nop => 0
  | .setf _ imm16 => imm16
  | .valid => 0
  | .enc => 0
  | .clrb => 0
  | .pushb imm8 => imm8.setWidth 16
  | .wrb _ imm8 => imm8.setWidth 16
  | .rdb _ => 0
  | .dec => 0
  | .rdv _ => 0
  | .csum => 0
  | .verify => 0

/-- The word with the fields op, a and imm at the positions of R56: op in bits 31..28, a in 27..16, imm in 15..0. -/
def packWord (op : BitVec 4) (a : BitVec 12) (imm : Half) : Word := op ++ a ++ imm

/-- The word of a command (R57 to R59). -/
def encode (i : Instr) : Word := packWord i.opcode.code i.aOperand i.immOperand

/-- A row of the opcode table: the bits the opcode fixes and the value they have (spec/opcode_table.json). -/
structure OpcodeRow where
  opcode : Opcode
  mask : Word
  value : Word
  deriving DecidableEq, Repr

/-- The opcode table, in its order: `mask` and `match` of each row as spec/opcode_table.json prints them. -/
def opcodeRows : List OpcodeRow :=
  [ ⟨.nop, 0xFFFFFFFF, 0x00000000⟩, ⟨.setf, 0xF0000000, 0x10000000⟩, ⟨.valid, 0xFFFFFFFF, 0x20000000⟩,
    ⟨.enc, 0xFFFFFFFF, 0x30000000⟩, ⟨.clrb, 0xFFFFFFFF, 0x40000000⟩, ⟨.pushb, 0xFFFFFF00, 0x50000000⟩,
    ⟨.wrb, 0xF000FF00, 0x60000000⟩, ⟨.rdb, 0xF000FFFF, 0x70000000⟩, ⟨.dec, 0xFFFFFFFF, 0x80000000⟩,
    ⟨.rdv, 0xF000FFFF, 0x90000000⟩, ⟨.csum, 0xFFFFFFFF, 0xA0000000⟩, ⟨.verify, 0xFFFFFFFF, 0xB0000000⟩ ]

/-- The word a table word of `nbits` bits stands for: its bits above `nbits` are zero, and a command has 32 (R56). -/
def tableWord (nbits w : Nat) : Word := BitVec.ofNat 32 (w % 2 ^ nbits)

/-- The command the decoder reads from a table word, `none` where it refuses. -/
def decodeTableWord (nbits w : Nat) : Option Instr :=
  match decode (tableWord nbits w) with
  | .instr i => some i
  | .illegal _ => none

end Sys2Proof
end

