-- ==== Sys2Proof/Machine/State.lean ====
section
/-! DEFINITION. The state of one RIC instance (10_state.md section 1), its reset value (R24), and the reasons a step
could stop. State is plain data. -/

namespace Sys2Proof.Machine

/-- The image buffer IMG (R14, 20_memory.md R30): (index, byte) pairs with strictly rising indices below 186 and no
zero byte; an index not listed holds the reset value 0x00 (R24). `Memory.wf` (Ops.lean) says this form holds. -/
abbrev Memory := List Host.Cell

/-- The five settings registers S[0..4], each 16 bits (R11). -/
structure Settings where
  xMax : Half
  yMax : Half
  touchThreshold : Half
  numTouchPoints : Half
  filterCoefficient : Half
  deriving DecidableEq, Repr

/-- The eleven view registers V[0..10]: two of 16 bits, nine of 8 bits (R16). -/
structure View where
  protocolVersion : Byte
  xMax : Half
  yMax : Half
  numTouchPoints : Byte
  moduleSwitch1 : Byte
  moduleSwitch2 : Byte
  shakeCount : Byte
  filterCoefficient : Byte
  touchThreshold : Byte
  checksum : Byte
  configFresh : Byte
  deriving DecidableEq, Repr

/-- The three errors a command can raise (60_exceptions.md R140). -/
inductive Error where
  | validationError
  | bufferLengthError
  | badCommand
  deriving DecidableEq, Repr

/-- One act of the host on the block: presenting a command word on the command port (R56, R153), or applying the
reset input (70_reset_and_hazards.md R170). -/
inductive HostAct where
  | command (w : Word)
  | reset
  deriving DecidableEq, Repr

/-- The whole state of one instance: the tuple of 10_state.md section 1, and `port`, which is the model's own field
(log entry 1): what the host still has to present, in order. It is the outside world's, not storage of the block. -/
structure State where
  /-- S[0..4] (R11, R12) -/
  settings : Settings
  /-- IMG[0..185] (R14) -/
  img : Memory
  /-- LEN (R15) -/
  len : BitVec 8
  /-- V[0..10] (R16) -/
  view : View
  /-- ERR (R17) -/
  err : BitVec 2
  /-- VOK (R18) -/
  vok : Bool
  /-- CSUM_OUT (R19) -/
  csumOut : Byte
  /-- RDATA (R20) -/
  rdata : Half
  /-- the host's coming acts (log entry 1) -/
  port : List HostAct
  deriving DecidableEq, Repr

/-- Faults: none. Every command word in every state has exactly one successor state (93_implementation_defined.md,
part 1), so the type has no constructor and no meaning can fault. -/
inductive Fault where
  deriving DecidableEq, Repr

/-- Refusals. -/
inductive Refusal where
  /-- Raised by an arm of `exec` whose command has no meaning yet; safe. No arm raises it: all twelve commands have
  their meaning. -/
  | notModelled (mnemonic : String)
  deriving DecidableEq, Repr

/-- What a step or a meaning answers. -/
abbrev Result := Host.Outcome State Fault Refusal

/-- Reset sets every bit of state to zero (R24), and the host has presented nothing yet (log entry 1). -/
def State.reset : State where
  settings := ⟨0, 0, 0, 0, 0⟩
  img := []
  len := 0
  view := ⟨0, 0, 0, 0, 0, 0, 0, 0, 0, 0, 0⟩
  err := 0
  vok := false
  csumOut := 0
  rdata := 0
  port := []

end Sys2Proof.Machine
end

