-- ==== Sys2Proof/Machine/Ops.lean ====
section
/-! DEFINITION. The named operations over the image buffer, the registers and the command port: byte reads and
writes, one setter per register, completing a command and raising an error (60_exceptions.md R145), the outputs the
host reads, and taking the host's next act. -/

namespace Sys2Proof.Machine

/-- What an index that no pair lists holds: the value reset and CLRB leave (R24, R122). -/
def Memory.unlisted : Byte := 0

/-- `IMG[i]`, the byte at index i (00_scope.md R6). -/
def Memory.read : Memory → Nat → Byte
  | [], _ => Memory.unlisted
  | c :: m, i => if c.1 = i then c.2 else Memory.read m i

/-- The pair (i, b) put at its place among pairs of rising indices. -/
def Memory.insert (i : Nat) (b : Byte) : Memory → Memory
  | [] => [(i, b)]
  | c :: m => if i < c.1 then (i, b) :: c :: m else c :: Memory.insert i b m

/-- `IMG[i] <- b` (R6), in canonical form: writing the unlisted value removes the entry. -/
def Memory.write (m : Memory) (i : Nat) (b : Byte) : Memory :=
  let rest := m.filter fun c => c.1 != i
  if b = Memory.unlisted then rest else Memory.insert i b rest

/-- The all-zero image of reset and CLRB (R24, R122). -/
def Memory.zero : Memory := []

/-- The indices listed rise strictly above `low`, lie below 186, and no listed byte is the unlisted value. -/
def Memory.wfFrom : Nat → Memory → Bool
  | _, [] => true
  | low, c :: m => decide (low ≤ c.1) && decide (c.1 < Config.imgLen) && (c.2 != Memory.unlisted)
      && Memory.wfFrom (c.1 + 1) m

/-- The canonical form: no byte at index 186 or beyond is ever stored (20_memory.md R39). -/
def Memory.wf (m : Memory) : Bool := Memory.wfFrom 0 m

/-- `MemRead(i, n)`: n bytes from index i, the byte at the lower index the less significant (20_memory.md R32). -/
def Memory.readLE (m : Memory) : Nat → Nat → Nat
  | _, 0 => 0
  | i, n + 1 => (Memory.read m i).toNat + 256 * Memory.readLE m (i + 1) n

/-- `MemWrite(i, n, v)`: the low 8n bits of v at index i, low byte first; the bits above are dropped
(20_memory.md R33). -/
def Memory.writeLE (m : Memory) : Nat → Nat → Int → Memory
  | _, 0, _ => m
  | i, n + 1, v => Memory.writeLE (Memory.write m i (BitVec.ofInt 8 v)) (i + 1) n (v / 256)

/-- The first n bytes of the image, index 0 first. -/
def Memory.bytes (m : Memory) (n : Nat) : List Byte := (List.range n).map (Memory.read m)

/-- `S[k]` (R6). -/
def Settings.get (st : Settings) : Setting → Half
  | .xMax => st.xMax
  | .yMax => st.yMax
  | .touchThreshold => st.touchThreshold
  | .numTouchPoints => st.numTouchPoints
  | .filterCoefficient => st.filterCoefficient

/-- `S[k] <- v` (R6). -/
def Settings.set (st : Settings) (k : Setting) (v : Half) : Settings :=
  match k with
  | .xMax => { st with xMax := v }
  | .yMax => { st with yMax := v }
  | .touchThreshold => { st with touchThreshold := v }
  | .numTouchPoints => { st with numTouchPoints := v }
  | .filterCoefficient => { st with filterCoefficient := v }

/-- `zext_16(V[k])` (R6, 44_data_movement.md R127). -/
def View.get (v : View) : Field → Half
  | .protocolVersion => v.protocolVersion.setWidth 16
  | .xMax => v.xMax
  | .yMax => v.yMax
  | .numTouchPoints => v.numTouchPoints.setWidth 16
  | .moduleSwitch1 => v.moduleSwitch1.setWidth 16
  | .moduleSwitch2 => v.moduleSwitch2.setWidth 16
  | .shakeCount => v.shakeCount.setWidth 16
  | .filterCoefficient => v.filterCoefficient.setWidth 16
  | .touchThreshold => v.touchThreshold.setWidth 16
  | .checksum => v.checksum.setWidth 16
  | .configFresh => v.configFresh.setWidth 16

def State.setSettings (s : State) (x : Settings) : State := { s with settings := x }
def State.setImg (s : State) (x : Memory) : State := { s with img := x }
def State.setLen (s : State) (x : BitVec 8) : State := { s with len := x }
def State.setView (s : State) (x : View) : State := { s with view := x }
def State.setErr (s : State) (x : BitVec 2) : State := { s with err := x }
def State.setVok (s : State) (x : Bool) : State := { s with vok := x }
def State.setCsumOut (s : State) (x : Byte) : State := { s with csumOut := x }
def State.setRdata (s : State) (x : Half) : State := { s with rdata := x }
def State.setPort (s : State) (x : List HostAct) : State := { s with port := x }

/-- The code an error leaves in ERR (60_exceptions.md R140). -/
def Error.code : Error → BitVec 2
  | .validationError => 1
  | .bufferLengthError => 2
  | .badCommand => 3

/-- The code of `Ok` (R140). -/
def okCode : BitVec 2 := 0

/-- A command ends without error: `ERR <- 0` (10_state.md R17). -/
def complete (s : State) : Result := .next (s.setErr okCode)

/-- `raise E`: write E's code to ERR, end the command, change nothing else; nothing is saved, no mode changes and
control goes nowhere, so there is no return either (60_exceptions.md R145, R147). -/
def raise (e : Error) (s : State) : Result := .next (s.setErr e.code)

/-- The five outputs the host reads at any time (60_exceptions.md R153, 92_eei_decisions.md D2). -/
structure Outputs where
  err : BitVec 2
  vok : Bool
  csumOut : Byte
  len : BitVec 8
  rdata : Half
  deriving DecidableEq, Repr

/-- What the host sees of a state: no settings register, image byte or view register is an output (R153). -/
def State.outputs (s : State) : Outputs :=
  { err := s.err, vok := s.vok, csumOut := s.csumOut, len := s.len, rdata := s.rdata }

/-- The host's next act with the state that waits for the acts after it; `none` when the host presents nothing. -/
def State.takeAct (s : State) : Option (HostAct × State) :=
  match s.port with
  | [] => none
  | a :: rest => some (a, s.setPort rest)

/-- The reset input is applied: every piece of the block's state takes its reset value, whatever it was (R170); what
the host still has to present is not the block's. -/
def State.applyReset (s : State) : State := State.reset.setPort s.port

end Sys2Proof.Machine
end

