-- ==== Sys2Proof/Machine/Operands.lean ====
section
/-! DEFINITION. Every way a command reaches a value: the settings registers as signed numbers (10_state.md R11), the
three ways to reach the image (44_data_movement.md R128), the FieldLayout table (30_encoding.md R50), and the
arithmetic of the field transformations (44_data_movement.md R129). -/

namespace Sys2Proof.Machine

/-- `sval`: the signed two's-complement value of a settings register (00_scope.md R6). -/
def sval (v : Half) : Int := v.toInt

/-- `clamp(v, lo, hi)` (00_scope.md R5). -/
def clamp (v lo hi : Int) : Int := min (max v lo) hi

/-- `zext_16` of a byte (R6). -/
def zext16 (b : Byte) : Half := b.setWidth 16

/-- The absolute index of WRB and RDB: the operand itself when it is 0..185 (R128, 20_memory.md R39). -/
def absoluteIndex (idx : BitVec 12) : Option Nat :=
  if idx.toNat < Config.imgLen then some idx.toNat else none

/-- The implicit append index of PUSHB: LEN while it is below 186, and no index at all from then on (R128, R123). -/
def appendIndex (s : State) : Option Nat :=
  if s.len.toNat < Config.imgLen then some s.len.toNat else none

/-- LEN after one more byte was presented: one more, saturating at 255 (10_state.md R15, R123). -/
def countedLen (len : BitVec 8) : BitVec 8 :=
  if len.toNat < Config.lenMax then len + 1 else len

/-- The device register address that image index i stands for; no command uses it (20_memory.md R31). -/
def deviceAddr (i : Nat) : Nat := Config.baseAddr + i

/-- Byte order of a multi-byte entry: little-endian is the only one (20_memory.md R34). -/
inductive ByteOrder where
  | littleEndian
  deriving DecidableEq, Repr

/-- A FieldLayout entry (30_encoding.md R50); `byteOrder` is absent for a one-byte field (R34). -/
structure FieldEntry where
  startOffset : Nat
  width : Nat
  byteOrder : Option ByteOrder
  deriving DecidableEq, Repr

/-- The FieldLayout table, hardwired (R21, R50): the sole source of truth for where each field lives. -/
def fieldLayout : Field → FieldEntry
  | .protocolVersion => ⟨0, 1, none⟩
  | .xMax => ⟨1, 2, some .littleEndian⟩
  | .yMax => ⟨3, 2, some .littleEndian⟩
  | .numTouchPoints => ⟨5, 1, none⟩
  | .moduleSwitch1 => ⟨6, 1, none⟩
  | .moduleSwitch2 => ⟨7, 1, none⟩
  | .shakeCount => ⟨8, 1, none⟩
  | .filterCoefficient => ⟨9, 1, none⟩
  | .touchThreshold => ⟨12, 1, none⟩
  | .checksum => ⟨184, 1, none⟩
  | .configFresh => ⟨185, 1, none⟩

/-- Image index i belongs to the field k. -/
def fieldCovers (k : Field) (i : Nat) : Bool :=
  decide ((fieldLayout k).startOffset ≤ i) && decide (i < (fieldLayout k).startOffset + (fieldLayout k).width)

/-- The fields in entry order. -/
def allFields : List Field :=
  [.protocolVersion, .xMax, .yMax, .numTouchPoints, .moduleSwitch1, .moduleSwitch2, .shakeCount,
   .filterCoefficient, .touchThreshold, .checksum, .configFresh]

/-- A reserved byte: an image byte that no FieldLayout entry covers (20_memory.md R38). -/
def reservedIndex (i : Nat) : Bool := decide (i < Config.imgLen) && allFields.all fun k => !fieldCovers k i

/-- The number in field k of an image, by MemRead at the field's fixed offset (42_decode.md R100). -/
def getField (m : Memory) (k : Field) : Nat :=
  Memory.readLE m (fieldLayout k).startOffset (fieldLayout k).width

/-- Field k of an image set to the low bits of v, by MemWrite at the field's fixed offset (41_encode.md R85). -/
def putField (m : Memory) (k : Field) (v : Int) : Memory :=
  Memory.writeLE m (fieldLayout k).startOffset (fieldLayout k).width v

/-- The stored num_touch_points: clamped into 1..10, never rejected (41_encode.md R88). -/
def storedTouchPoints (n : Int) : Int := clamp n Config.ntpMin Config.ntpMax

/-- The stored filter_coefficient: the low 8 bits, in two's complement for a negative value (41_encode.md R89). -/
def storedFilter (f : Int) : Int := f % 256

/-- The stored touch_threshold under either value of THR_ORDER (41_encode.md R90, 92_eei_decisions.md D12). -/
def storedThreshold (order : Config.ThrOrder) (t : Int) : Int :=
  match order with
  | .floorThenTruncate => max Config.thrMin t % 256
  | .truncateThenFloor => max Config.thrMin (t % 256)

end Sys2Proof.Machine
end

