-- ==== Sys2Proof/Machine/Flags.lean ====
section
/-! DEFINITION. What decides ERR, VOK and CSUM_OUT: the resolution predicate (40_validate.md R80), the length test
(60_exceptions.md R142) and the checksum function with its comparison (43_checksum.md R110, R113). -/

namespace Sys2Proof.Machine

/-- `valid_res(v)` (R80). -/
def validRes (v : Int) : Bool := decide (0 < v) && decide (v ≤ Config.resMax) && decide (v % 2 = 0)

/-- The validator on the settings registers: only x_max and y_max are tested (R80). -/
def validSettings (st : Settings) : Bool := validRes (sval st.xMax) && validRes (sval st.yMax)

/-- The presented blob is exactly 186 bytes long (R15, R142). -/
def wholeBlob (s : State) : Bool := decide (s.len.toNat = Config.imgLen)

/-- The sum of a sequence of bytes, as an exact integer (R111 (e)). -/
def byteSum (b : List Byte) : Nat := (b.map BitVec.toNat).sum

/-- `csum(b)`: with S the sum modulo 256, `((NOT S) + 1) mod 256` (R110). Its callers give it exactly the 184 bytes
0..183. -/
def csum (b : List Byte) : Byte := ~~~(BitVec.ofNat 8 (byteSum b)) + 1

/-- `csum(IMG[0..183])` (R112). -/
def imageCsum (m : Memory) : Byte := csum (Memory.bytes m Config.csumSpan)

/-- The stored checksum, byte 184 (R50). -/
def storedCsum (m : Memory) : Byte := BitVec.ofNat 8 (getField m .checksum)

/-- The verdict of `verify`: the recomputed checksum equals the stored byte (R113). -/
def checksumMatches (m : Memory) : Bool := imageCsum m == storedCsum m

end Sys2Proof.Machine
end

