-- ==== Sys2Proof/Machine/Checksum.lean ====
section
/-! DEFINITION. The checksum family: CSUM and VERIFY (43_checksum.md). -/

namespace Sys2Proof.Machine

/-- CSUM (R112): CSUM_OUT takes the checksum of bytes 0..183, whatever LEN is. -/
def execCsum (s : State) : Result := complete (s.setCsumOut (imageCsum s.img))

/-- VERIFY (R113): VOK takes the verdict on a whole blob; another length clears VOK and raises BufferLengthError, the
one raise that changes something besides ERR (60_exceptions.md R145). -/
def execVerify (s : State) : Result :=
  if wholeBlob s then complete (s.setVok (checksumMatches s.img))
  else raise .bufferLengthError (s.setVok false)

end Sys2Proof.Machine
end

