-- ==== Sys2Proof/Machine/DataMovement.lean ====
section
/-! DEFINITION. The data movement family: NOP, SETF, CLRB, PUSHB, WRB, RDB, RDV (44_data_movement.md). -/

namespace Sys2Proof.Machine

/-- NOP (R120): nothing changes, not even ERR. -/
def execNop (s : State) : Result := .next s

/-- SETF (R121): one settings register takes the immediate, unchecked. -/
def execSetf (k : Setting) (imm16 : Half) (s : State) : Result :=
  complete (s.setSettings (s.settings.set k imm16))

/-- CLRB (R122): all 186 bytes zero and LEN 0. -/
def execClrb (s : State) : Result := complete ((s.setImg Memory.zero).setLen 0)

/-- PUSHB (R123): the byte is stored at LEN while LEN is below 186 and discarded from then on; LEN counts it. -/
def execPushb (imm8 : Byte) (s : State) : Result :=
  match appendIndex s with
  | some i => complete ((s.setImg (Memory.write s.img i imm8)).setLen (countedLen s.len))
  | none => complete (s.setLen (countedLen s.len))

/-- WRB (R124): one image byte; an index of 186 or more is no command's operand and raises BadCommand (R39). -/
def execWrb (idx : BitVec 12) (imm8 : Byte) (s : State) : Result :=
  match absoluteIndex idx with
  | some i => complete (s.setImg (Memory.write s.img i imm8))
  | none => raise .badCommand s

/-- RDB (R126): RDATA takes one image byte, zero-extended; an index of 186 or more raises BadCommand (R39). -/
def execRdb (idx : BitVec 12) (s : State) : Result :=
  match absoluteIndex idx with
  | some i => complete (s.setRdata (zext16 (Memory.read s.img i)))
  | none => raise .badCommand s

/-- RDV (R127): RDATA takes one view register, zero-extended. -/
def execRdv (k : Field) (s : State) : Result := complete (s.setRdata (s.view.get k))

end Sys2Proof.Machine
end

