-- ==== Sys2Proof/Machine/Decoder.lean ====
section
/-! DEFINITION. The decoder family: DEC (42_decode.md). -/

namespace Sys2Proof.Machine

/-- The view of an image: each register from its FieldLayout entry, with no check of any field (R100, R101, R53). -/
def viewOf (m : Memory) : View where
  protocolVersion := BitVec.ofNat 8 (getField m .protocolVersion)
  xMax := BitVec.ofNat 16 (getField m .xMax)
  yMax := BitVec.ofNat 16 (getField m .yMax)
  numTouchPoints := BitVec.ofNat 8 (getField m .numTouchPoints)
  moduleSwitch1 := BitVec.ofNat 8 (getField m .moduleSwitch1)
  moduleSwitch2 := BitVec.ofNat 8 (getField m .moduleSwitch2)
  shakeCount := BitVec.ofNat 8 (getField m .shakeCount)
  filterCoefficient := BitVec.ofNat 8 (getField m .filterCoefficient)
  touchThreshold := BitVec.ofNat 8 (getField m .touchThreshold)
  checksum := BitVec.ofNat 8 (getField m .checksum)
  configFresh := BitVec.ofNat 8 (getField m .configFresh)

/-- DEC (R100): the view of a whole blob, or BufferLengthError with the view untouched. -/
def execDec (s : State) : Result :=
  if wholeBlob s then complete (s.setView (viewOf s.img)) else raise .bufferLengthError s

end Sys2Proof.Machine
end

