-- ==== Sys2Proof/Machine/Encoder.lean ====
section
/-! DEFINITION. The encoder family: ENC (41_encode.md), its working buffer built in the order of R85's steps. -/

namespace Sys2Proof.Machine

/-- Steps 2 to 10 of R85: an all-zero buffer with the settings and the constants at their offsets (R86 to R91), under a
value of THR_ORDER. -/
def imageBody (order : Config.ThrOrder) (st : Settings) : Memory :=
  let b := Memory.zero
  let b := putField b .protocolVersion Config.protoVer
  let b := putField b .xMax (sval st.xMax)
  let b := putField b .yMax (sval st.yMax)
  let b := putField b .numTouchPoints (storedTouchPoints (sval st.numTouchPoints))
  let b := putField b .moduleSwitch1 Config.msw1
  let b := putField b .moduleSwitch2 Config.msw2
  let b := putField b .shakeCount Config.shake
  let b := putField b .filterCoefficient (storedFilter (sval st.filterCoefficient))
  putField b .touchThreshold (storedThreshold order (sval st.touchThreshold))

/-- Steps 11 and 12 of R85: the checksum of bytes 0..183, then the sentinel (R92). -/
def encodeImage (order : Config.ThrOrder) (st : Settings) : Memory :=
  let b := imageBody order st
  let b := putField b .checksum (imageCsum b).toNat
  putField b .configFresh Config.fresh

/-- LEN of a whole image (R93 (a)). -/
def wholeLen : BitVec 8 := BitVec.ofNat 8 Config.imgLen

/-- ENC (R85): validate, then replace IMG by the image of the settings, under THR_ORDER's value, and set LEN to
186; a failure changes ERR only. -/
def execEnc (s : State) : Result :=
  if validSettings s.settings then complete ((s.setImg (encodeImage Config.thrOrder s.settings)).setLen wholeLen)
  else raise .validationError s

end Sys2Proof.Machine
end

