-- ==== Sys2Proof/Machine/Validator.lean ====
section
/-! DEFINITION. The validator family: VALID (40_validate.md). -/

namespace Sys2Proof.Machine

/-- VALID (R81): ERR reports whether x_max and y_max are legal; nothing else changes. -/
def execValid (s : State) : Result :=
  if validSettings s.settings then complete s else raise .validationError s

end Sys2Proof.Machine
end

