-- ==== Sys2Proof/Machine/Dispatch.lean ====
section
/-! DEFINITION. One arm per command. -/

namespace Sys2Proof.Machine

def exec (i : Instr) (s : State) : Host.Outcome State Fault Refusal :=
  match i with
  | .nop => Sys2Proof.Machine.execNop s
  | .setf k imm16 => Sys2Proof.Machine.execSetf k imm16 s
  | .valid => Sys2Proof.Machine.execValid s
  | .enc => Sys2Proof.Machine.execEnc s
  | .clrb => Sys2Proof.Machine.execClrb s
  | .pushb imm8 => Sys2Proof.Machine.execPushb imm8 s
  | .wrb idx imm8 => Sys2Proof.Machine.execWrb idx imm8 s
  | .rdb idx => Sys2Proof.Machine.execRdb idx s
  | .dec => Sys2Proof.Machine.execDec s
  | .rdv k => Sys2Proof.Machine.execRdv k s
  | .csum => Sys2Proof.Machine.execCsum s
  | .verify => Sys2Proof.Machine.execVerify s

end Sys2Proof.Machine
end

