-- ==== Sys2Proof/Machine/Command.lean ====
section
/-! DEFINITION. What the block does with one act of the host: a presented command word is decoded and executed, an
illegal one raises BadCommand (30_encoding.md R60, R61), and the reset input resets (70_reset_and_hazards.md R170). -/

namespace Sys2Proof.Machine

/-- One command word, decoded and executed as one atomic step (R60, 00_scope.md R7). -/
def execWord (w : Word) (s : State) : Result :=
  match decode w with
  | .instr i => exec i s
  | .illegal _ => raise .badCommand s

/-- One act of the host. -/
def execAct (a : HostAct) (s : State) : Result :=
  match a with
  | .command w => execWord w s
  | .reset => .next s.applyReset

/-- The block's next step: the host's next act, or, when the host presents nothing, nothing: between commands the
block is idle and holds its state (60_exceptions.md R156). -/
def runNextAct (s : State) : Result :=
  match s.takeAct with
  | some (a, s') => execAct a s'
  | none => .next s

/-- The host presents a word before the acts it already had in mind. -/
def presentWord (w : Word) (s : State) : State := s.setPort (.command w :: s.port)

end Sys2Proof.Machine
end

