-- ==== Sys2Proof/Machine/Step.lean ====
section
/-! DEFINITION. The step of one instance, and where the host's next command word stands. -/

namespace Sys2Proof.Machine

/-- One step: one act of the host, executed from start to end (00_scope.md R7, 20_memory.md R41). -/
def step (s : State) : Host.Outcome State Fault Refusal := runNextAct s

/-- The state with a table word presented on the command port, so that the next step executes it (log entry 2). -/
def State.withFetchWord (s : State) (nbits w : Nat) : State := presentWord (tableWord nbits w) s

end Sys2Proof.Machine
end

