-- ==== Sys2Proof/Machine/Pseudo.lean ====
section
/-! DEFINITION. Command sequences: running one command after another, each on the state the one before it left
(20_memory.md R41), and the five pseudo-instructions (30_encoding.md R64). -/

namespace Sys2Proof.Machine

/-- The commands of a list in order, stopping where one does not answer a next state. -/
def execAll : List Instr → State → Result
  | [], s => .next s
  | i :: rest, s =>
    match exec i s with
    | .next t => execAll rest t
    | .fault r => .fault r
    | .refused r => .refused r

/-- `SETALL x, y, t, n, f` (R64). -/
def setAllSeq (x y t n f : Half) : List Instr :=
  [.setf .xMax x, .setf .yMax y, .setf .touchThreshold t, .setf .numTouchPoints n, .setf .filterCoefficient f]

/-- `ENCODE x, y, t, n, f` (R64). -/
def encodeSeq (x y t n f : Half) : List Instr := setAllSeq x y t n f ++ [.enc]

/-- `VALIDATE x, y` (R64). -/
def validateSeq (x y : Half) : List Instr := [.setf .xMax x, .setf .yMax y, .valid]

/-- `LOADIMG b0, ..., b(k-1)` for any k (R64). -/
def loadImgSeq (blob : List Byte) : List Instr := .clrb :: blob.map .pushb

/-- `DECODE b0, ..., b(k-1)` (R64). -/
def decodeSeq (blob : List Byte) : List Instr := loadImgSeq blob ++ [.dec]

end Sys2Proof.Machine
end

