-- ==== Sys2Proof/Machine/Assembler.lean ====
section
/-! DEFINITION. The assembler syntax of 30_encoding.md R63 with the pseudo-instructions of R64: one line of characters
to the commands it stands for, `none` where the assembler refuses. What R63 leaves to the writer of an assembler
(white space, the case of hexadecimal digits, empty lines) is log entry 5. -/

namespace Sys2Proof.Machine

/-- White space between the parts of a line (log entry 5). -/
def isBlank (c : Char) : Bool := c == ' ' || c == '\t'

/-- A line without its comment: `;` starts one (R63). -/
def stripComment (line : List Char) : List Char := line.takeWhile fun c => c != ';'

/-- Characters without the white space around them. -/
def trim (cs : List Char) : List Char := ((cs.dropWhile isBlank).reverse.dropWhile isBlank).reverse

/-- The pieces between commas (R63). -/
def splitCommas : List Char → List (List Char)
  | [] => [[]]
  | c :: cs =>
    match splitCommas cs with
    | [] => [[c]]
    | piece :: pieces => if c == ',' then [] :: piece :: pieces else (c :: piece) :: pieces

def decDigit (c : Char) : Option Nat :=
  if 48 ≤ c.toNat ∧ c.toNat ≤ 57 then some (c.toNat - 48) else none

def hexDigit (c : Char) : Option Nat :=
  if 48 ≤ c.toNat ∧ c.toNat ≤ 57 then some (c.toNat - 48)
  else if 65 ≤ c.toNat ∧ c.toNat ≤ 70 then some (c.toNat - 55)
  else if 97 ≤ c.toNat ∧ c.toNat ≤ 102 then some (c.toNat - 87)
  else none

/-- A run of digits in a base, after the number read so far. -/
def readDigits (digit : Char → Option Nat) (base : Nat) : Nat → List Char → Option Nat
  | acc, [] => some acc
  | acc, c :: cs =>
    match digit c with
    | some d => readDigits digit base (acc * base + d) cs
    | none => none

/-- A number as R63 writes it: hexadecimal after `0x`, decimal with or without a leading minus sign. -/
inductive Number where
  | hexadecimal (n : Nat)
  | decimal (n : Nat)
  | negative (n : Nat)
  deriving DecidableEq, Repr

def readNumber : List Char → Option Number
  | [] => none
  | [c] => (readDigits decDigit 10 0 [c]).map .decimal
  | c :: d :: cs =>
    if c == '-' then (readDigits decDigit 10 0 (d :: cs)).map .negative
    else if c == '0' && d == 'x' then
      match cs with
      | [] => none
      | _ :: _ => (readDigits hexDigit 16 0 cs).map .hexadecimal
    else (readDigits decDigit 10 0 (c :: d :: cs)).map .decimal

/-- An unsigned operand below `bound`; only a signed operand may have a minus sign (R63). -/
def readUnsigned (bound : Nat) (cs : List Char) : Option Nat :=
  match readNumber cs with
  | some (.hexadecimal n) => if n < bound then some n else none
  | some (.decimal n) => if n < bound then some n else none
  | some (.negative _) => none
  | none => none

/-- The immediate of SETF: -32768..32767 in decimal, or 0x0000..0xFFFF as raw bits (R63). -/
def readImm16 (cs : List Char) : Option Half :=
  match readNumber cs with
  | some (.hexadecimal n) => if n ≤ 0xFFFF then some (BitVec.ofNat 16 n) else none
  | some (.decimal n) => if n ≤ 32767 then some (BitVec.ofNat 16 n) else none
  | some (.negative n) => if n ≤ 32768 then some (BitVec.ofInt 16 (-n)) else none
  | none => none

/-- The byte immediate of PUSHB and WRB (R63). -/
def readImm8 (cs : List Char) : Option Byte := (readUnsigned 256 cs).map (BitVec.ofNat 8)

/-- The image index of WRB and RDB (R63). -/
def readIdx (cs : List Char) : Option (BitVec 12) := (readUnsigned Config.imgLen cs).map (BitVec.ofNat 12)

/-- The selector names of SETF (R63). -/
def settingNames : List (List Char × Setting) :=
  [("X_MAX".toList, .xMax), ("Y_MAX".toList, .yMax), ("THR".toList, .touchThreshold),
   ("NTP".toList, .numTouchPoints), ("FILT".toList, .filterCoefficient)]

/-- The selector names of RDV (R63). -/
def fieldNames : List (List Char × Field) :=
  [("VERSION".toList, .protocolVersion), ("X_MAX".toList, .xMax), ("Y_MAX".toList, .yMax),
   ("NTP".toList, .numTouchPoints), ("MSW1".toList, .moduleSwitch1), ("MSW2".toList, .moduleSwitch2),
   ("SHAKE".toList, .shakeCount), ("FILT".toList, .filterCoefficient), ("THR".toList, .touchThreshold),
   ("CSUM".toList, .checksum), ("FRESH".toList, .configFresh)]

/-- What a name stands for in a table of names. -/
def lookupName {α : Type} (names : List (List Char × α)) (cs : List Char) : Option α :=
  (names.find? fun p => p.1 == cs).map Prod.snd

/-- A settings selector: a name, or a number 0..4 (R63). -/
def readSetting (cs : List Char) : Option Setting :=
  match lookupName settingNames cs with
  | some k => some k
  | none => (readUnsigned 5 cs).bind fun n => Setting.ofSel (BitVec.ofNat 12 n)

/-- A view selector: a name, or a number 0..10 (R63). -/
def readField (cs : List Char) : Option Field :=
  match lookupName fieldNames cs with
  | some k => some k
  | none => (readUnsigned 11 cs).bind fun n => Field.ofSel (BitVec.ofNat 12 n)

/-- What can head a line: the twelve mnemonics (R63) and the five pseudo-instructions (R64). -/
inductive Head where
  | command (o : Opcode)
  | setAll
  | encode
  | validate
  | loadImg
  | decode
  deriving DecidableEq, Repr

/-- The mnemonics, in capitals (R63, R64). -/
def headNames : List (List Char × Head) :=
  [("NOP".toList, .command .nop), ("SETF".toList, .command .setf), ("VALID".toList, .command .valid),
   ("ENC".toList, .command .enc), ("CLRB".toList, .command .clrb), ("PUSHB".toList, .command .pushb),
   ("WRB".toList, .command .wrb), ("RDB".toList, .command .rdb), ("DEC".toList, .command .dec),
   ("RDV".toList, .command .rdv), ("CSUM".toList, .command .csum), ("VERIFY".toList, .command .verify),
   ("SETALL".toList, .setAll), ("ENCODE".toList, .encode), ("VALIDATE".toList, .validate),
   ("LOADIMG".toList, .loadImg), ("DECODE".toList, .decode)]

/-- Every piece read by one reader, `none` when one of them is refused. -/
def readEach {α : Type} (reader : List Char → Option α) : List (List Char) → Option (List α)
  | [] => some []
  | cs :: rest =>
    match reader cs, readEach reader rest with
    | some x, some xs => some (x :: xs)
    | _, _ => none

/-- The command of an opcode with its operands as written (R63). -/
def readCommand (o : Opcode) (ops : List (List Char)) : Option Instr :=
  match o, ops with
  | .nop, [] => some .nop
  | .setf, [k, v] => (readSetting k).bind fun k => (readImm16 v).map fun v => .setf k v
  | .valid, [] => some .valid
  | .enc, [] => some .enc
  | .clrb, [] => some .clrb
  | .pushb, [b] => (readImm8 b).map .pushb
  | .wrb, [i, b] => (readIdx i).bind fun i => (readImm8 b).map fun b => .wrb i b
  | .rdb, [i] => (readIdx i).map .rdb
  | .dec, [] => some .dec
  | .rdv, [k] => (readField k).map .rdv
  | .csum, [] => some .csum
  | .verify, [] => some .verify
  | _, _ => none

/-- The commands a head with its operands stands for (R63, R64). -/
def expandHead (h : Head) (ops : List (List Char)) : Option (List Instr) :=
  match h with
  | .command o => (readCommand o ops).map fun i => [i]
  | .setAll =>
    match readEach readImm16 ops with
    | some [x, y, t, n, f] => some (setAllSeq x y t n f)
    | _ => none
  | .encode =>
    match readEach readImm16 ops with
    | some [x, y, t, n, f] => some (encodeSeq x y t n f)
    | _ => none
  | .validate =>
    match readEach readImm16 ops with
    | some [x, y] => some (validateSeq x y)
    | _ => none
  | .loadImg => (readEach readImm8 ops).map loadImgSeq
  | .decode => (readEach readImm8 ops).map decodeSeq

/-- The operands of a line: what stands between commas after the mnemonic, or none. -/
def operandPieces (rest : List Char) : List (List Char) :=
  match rest with
  | [] => []
  | c :: cs => (splitCommas (c :: cs)).map trim

/-- One line: the commands it stands for, in order; an empty line stands for none (R63, R64). -/
def assembleLine (line : List Char) : Option (List Instr) :=
  match trim (stripComment line) with
  | [] => some []
  | c :: cs =>
    let body := c :: cs
    match lookupName headNames (body.takeWhile fun c => !isBlank c) with
    | some h => expandHead h (operandPieces (trim (body.dropWhile fun c => !isBlank c)))
    | none => none

/-- The command words of a line (R63). -/
def assembleWords (line : List Char) : Option (List Word) := (assembleLine line).map fun is => is.map encode

end Sys2Proof.Machine
end

