-- ==== Sys2Proof/Machine/FieldMux.lean ====
section
/-! DEFINITION. The field muxes of 30_encoding.md R52 and R53, index by index and register by register, and on them the
source's five functions as R65 names them. The commands do not use these: they follow the step-by-step pseudocode of
R85 and R100, and that the two agree is stated, not built in. -/

namespace Sys2Proof.Machine

/-- `v[7:0]` of a settings register. -/
def lowByte (v : Half) : Byte := v.extractLsb' 0 8
/-- `v[15:8]` of a settings register. -/
def highByte (v : Half) : Byte := v.extractLsb' 8 8

/-- The table of R52 below index 184: the byte the encoder drives onto image index i. -/
def muxBody (st : Settings) (i : Nat) : Byte :=
  match i with
  | 0 => 0x01
  | 1 => lowByte st.xMax
  | 2 => highByte st.xMax
  | 3 => lowByte st.yMax
  | 4 => highByte st.yMax
  | 5 => BitVec.ofInt 8 (clamp (sval st.numTouchPoints) 1 10)
  | 8 => 0x03
  | 9 => lowByte st.filterCoefficient
  | 12 => BitVec.ofInt 8 (max 1 (sval st.touchThreshold) % 256)
  | _ => 0x00

/-- The whole table of R52: the checksum of bytes 0..183 at 184, the sentinel at 185. -/
def muxByte (st : Settings) (i : Nat) : Byte :=
  if i < 184 then muxBody st i
  else if i = 184 then csum ((List.range 184).map (muxBody st))
  else if i = 185 then 0x01
  else 0x00

/-- The table of R53, from the byte at each index: the 16-bit registers are two bytes side by side. -/
def muxView (byteAt : Nat → Byte) : View where
  protocolVersion := byteAt 0
  xMax := byteAt 2 ++ byteAt 1
  yMax := byteAt 4 ++ byteAt 3
  numTouchPoints := byteAt 5
  moduleSwitch1 := byteAt 6
  moduleSwitch2 := byteAt 7
  shakeCount := byteAt 8
  filterCoefficient := byteAt 9
  touchThreshold := byteAt 12
  checksum := byteAt 184
  configFresh := byteAt 185

/-- Byte i of a blob given as a sequence, 0 beyond its end. -/
def blobByte (blob : List Byte) (i : Nat) : Byte := blob.getD i 0

/-- The source's `validate(settings)`: `true` is Ok, `false` ValidationError (R65). -/
def sourceValidate (st : Settings) : Bool := validSettings st

/-- The source's `encode(settings)`: the 186 bytes, or `none` for ValidationError (R65). -/
def sourceEncode (st : Settings) : Option (List Byte) :=
  if sourceValidate st then some ((List.range 186).map (muxByte st)) else none

/-- The source's `decode(blob)`: the view, or `none` for BufferLengthError (R65). -/
def sourceDecode (blob : List Byte) : Option View :=
  if blob.length = 186 then some (muxView (blobByte blob)) else none

/-- The source's `verify(blob)` of a 186-byte blob (R65). -/
def sourceVerify (blob : List Byte) : Bool := csum (blob.take 184) == blobByte blob 184

/-- A well-formed image, the source's "valid instance" (R51): byte 184 is the checksum of bytes 0..183 and byte 185
is the sentinel. -/
def wellFormedImage (m : Memory) : Bool :=
  (Memory.read m 184 == csum (Memory.bytes m 184)) && (Memory.read m 185 == 0x01)

end Sys2Proof.Machine
end

