-- ==== Sys2Proof/Machine/Instances.lean ====
section
/-! DEFINITION. Several instances side by side (20_memory.md R42, 60_exceptions.md R154): a list of states that share
nothing mutable, one of which takes a step. Which one moves next is the outside world's choice, so it is an argument. -/

namespace Sys2Proof.Machine

/-- Instance k takes a step; the others are not touched (R42). A number that names no instance does nothing. -/
def stepInstance (k : Nat) (ms : List State) : Host.Outcome (List State) Fault Refusal :=
  match ms[k]? with
  | none => .next ms
  | some s =>
    match step s with
    | .next t => .next (ms.set k t)
    | .fault r => .fault r
    | .refused r => .refused r

end Sys2Proof.Machine
end

