-- ==== Sys2Proof/Safety.lean ====
section
/-! DEFINITION. The terms claims use: the invariant of the state, a safe run, what it means that parts of the state are
unchanged, and the fields of a command word read as numbers. -/

namespace Sys2Proof.Machine

/-- The invariant: the image buffer is in canonical form (log entry 4), so no byte at index 186 or beyond is stored
(20_memory.md R39). Every other field holds a legal value whatever its bits are (10_state.md section 6). -/
def State.Inv (s : State) : Prop := Memory.wf s.img = true

/-- A safe run of n steps: none of them faults or is refused. -/
def SafeRun (n : Nat) (s : State) : Prop := ∃ t, Host.Core.run Sys2Proof.core n s = .next t

/-- Every image byte reads as before. -/
def SameImage (s t : State) : Prop := ∀ i, Memory.read t.img i = Memory.read s.img i

/-- VOK, CSUM_OUT and RDATA, and what the host has still to present, are unchanged. -/
def SameOutputs (s t : State) : Prop :=
  t.vok = s.vok ∧ t.csumOut = s.csumOut ∧ t.rdata = s.rdata ∧ t.port = s.port

/-- Both resolutions are legal (40_validate.md R80), read off the two registers. -/
def LegalResolutions (st : Settings) : Prop :=
  (0 < sval st.xMax ∧ sval st.xMax ≤ 4095 ∧ sval st.xMax % 2 = 0) ∧
    (0 < sval st.yMax ∧ sval st.yMax ≤ 4095 ∧ sval st.yMax % 2 = 0)

/-- `w[31:28]` as a number. -/
def opNum (w : Word) : Nat := w.toNat / 2 ^ 28
/-- `w[27:16]` as a number. -/
def aNum (w : Word) : Nat := w.toNat / 2 ^ 16 % 2 ^ 12
/-- `w[15:0]` as a number. -/
def immNum (w : Word) : Nat := w.toNat % 2 ^ 16

/-- The list of illegal words as 30_encoding.md R61 gives it. -/
def ListedIllegal (w : Word) : Prop :=
  12 ≤ opNum w
  ∨ (opNum w ∈ [0, 2, 3, 4, 8, 10, 11] ∧ w.toNat % 2 ^ 28 ≠ 0)
  ∨ (opNum w = 5 ∧ w.toNat / 2 ^ 8 % 2 ^ 20 ≠ 0)
  ∨ (opNum w = 6 ∧ (immNum w / 2 ^ 8 ≠ 0 ∨ 186 ≤ aNum w))
  ∨ (opNum w = 7 ∧ (immNum w ≠ 0 ∨ 186 ≤ aNum w))
  ∨ (opNum w = 9 ∧ (immNum w ≠ 0 ∨ 11 ≤ aNum w))
  ∨ (opNum w = 1 ∧ 5 ≤ aNum w)

end Sys2Proof.Machine
end

