-- ==== Sys2Proof/Certificates/Slice0/Obligations.lean ====
section
/-! DEFINITION. The statements for the provers. Each docstring names the rule of spec/ it formalises. Results are given
for every state, with the next state written out, so a statement of a result is also the statement of where the command
completes and of its frame. -/

open Sys2Proof Sys2Proof.Machine

/-! ## The command word -/

/-- Log entry 1: the port is the model's own. When the next act is a word that decodes to a command, the step is that
command's meaning on the state that waits for the acts after it; an illegal word raises BadCommand; the reset input
resets; and with nothing presented the block holds its state. -/
def Obligations.StepRunsTheDecodedCommand : Prop :=
  (∀ (s : State) (w : Word) (rest : List HostAct) (i : Instr),
    s.port = .command w :: rest → decode w = .instr i → step s = exec i (s.setPort rest)) ∧
  (∀ (s : State) (w : Word) (rest : List HostAct) (why : Illegal),
    s.port = .command w :: rest → decode w = .illegal why → step s = .next { s with port := rest, err := 3 }) ∧
  (∀ (s : State) (rest : List HostAct),
    s.port = .reset :: rest → step s = .next { State.reset with port := rest }) ∧
  (∀ s : State, s.port = [] → step s = .next s)

/-- Log entry 2: a table word placed with withFetchWord is the word the very next step decodes and executes, and the
state that step starts from is otherwise unchanged. -/
def Obligations.PresentedTableWordRunsNext : Prop :=
  ∀ (s : State) (w : Word) (i : Instr), decode w = .instr i →
    decodeTableWord 32 w.toNat = some i ∧ step (s.withFetchWord 32 w.toNat) = exec i s

/-- R61, R143: the illegal words are exactly those listed; each sets ERR to 3 and changes nothing else; NOP is the word
0 alone. -/
def Obligations.IllegalWordsAreThoseListed : Prop :=
  (∀ w : Word, (∃ why, decode w = .illegal why) ↔ ListedIllegal w) ∧
  (∀ (w : Word) (s : State), ListedIllegal w → execWord w s = .next { s with err := 3 }) ∧
  (∀ w : Word, decode w = .instr .nop ↔ w = 0)

/-- R56 to R60: decoding the word of a well-formed command gives the command back. -/
def Obligations.DecodeOfEncodeIsTheCommand : Prop :=
  ∀ i : Instr, i.wellFormed = true → decode (encode i) = .instr i

/-- R56 to R60: a word that decodes is the word of the command it decodes to, and that command is well formed. -/
def Obligations.LegalWordsAreEncodings : Prop :=
  ∀ (w : Word) (i : Instr), decode w = .instr i → i.wellFormed = true ∧ encode i = w

/-- R63's example words, bit by bit as its table gives them. -/
def Obligations.ExampleWordsDecode : Prop :=
  decode 0x00000000 = .instr .nop ∧
  decode 0x10000400 = .instr (.setf .xMax 1024) ∧
  decode 0x20000000 = .instr .valid ∧
  decode 0x30000000 = .instr .enc ∧
  decode 0x40000000 = .instr .clrb ∧
  decode 0x50000058 = .instr (.pushb 0x58) ∧
  decode 0x60B80085 = .instr (.wrb 184 0x85) ∧
  decode 0x70B80000 = .instr (.rdb 184) ∧
  decode 0x80000000 = .instr .dec ∧
  decode 0x90020000 = .instr (.rdv .yMax) ∧
  decode 0xA0000000 = .instr .csum ∧
  decode 0xB0000000 = .instr .verify

/-- R59 and the opcode table: a legal word has the fixed bits of its own row and of no other. -/
def Obligations.LegalWordMatchesItsRowAlone : Prop :=
  ∀ (w : Word) (i : Instr), decode w = .instr i →
    ∀ r ∈ opcodeRows, w &&& r.mask = r.value ↔ r.opcode = i.opcode

/-! ## Data movement -/

/-- R120, its first sentence and its encoding: NOP changes nothing, not even ERR; its word is 0. That every other command
writes ERR is said in EveryErrorHasItsCause, that no other word is NOP in IllegalWordsAreThoseListed. -/
def Obligations.NopChangesNothing : Prop :=
  encode .nop = 0 ∧ ∀ s : State, exec .nop s = .next s

/-- R121: SETF writes its one register, unchecked, and ERR; a selector of 5 or more raises BadCommand. -/
def Obligations.SetfWritesOneRegister : Prop :=
  (∀ (k : Setting) (v : Half) (s : State), ∃ t, exec (.setf k v) s = .next t ∧
    t.settings.get k = v ∧ sval (t.settings.get k) = v.toInt ∧
    (∀ j, j ≠ k → t.settings.get j = s.settings.get j) ∧ t.err = 0 ∧
    SameImage s t ∧ t.len = s.len ∧ t.view = s.view ∧ SameOutputs s t) ∧
  (∀ (k : Setting) (v : Half), (encode (.setf k v)).toNat = 0x10000000 + k.sel.toNat * 2 ^ 16 + v.toNat) ∧
  (∀ (w : Word) (s : State), opNum w = 1 → 5 ≤ aNum w → execWord w s = .next { s with err := 3 })

/-- R122: CLRB zeroes all image bytes and LEN; after it DEC and VERIFY raise BufferLengthError, CSUM gives 0 and
every RDB gives 0. -/
def Obligations.ClrbEmptiesTheImage : Prop :=
  encode .clrb = 0x40000000 ∧
  ∀ s : State, ∃ t, exec .clrb s = .next t ∧
    (∀ i, Memory.read t.img i = 0) ∧ t.len = 0 ∧ t.err = 0 ∧
    t.settings = s.settings ∧ t.view = s.view ∧ SameOutputs s t ∧
    exec .dec t = .next { t with err := 2 } ∧
    exec .verify t = .next { t with vok := false, err := 2 } ∧
    exec .csum t = .next { t with csumOut := 0, err := 0 } ∧
    ∀ idx : BitVec 12, idx.toNat < 186 → exec (.rdb idx) t = .next { t with rdata := 0, err := 0 }

/-- R123: PUSHB stores its byte at LEN while LEN is below 186, discards it from then on, and counts it, saturating at
255; no other byte changes. -/
def Obligations.PushbAppendsOneByte : Prop :=
  (∀ b : Byte, (encode (.pushb b)).toNat = 0x50000000 + b.toNat) ∧
  ∀ (b : Byte) (s : State), ∃ t, exec (.pushb b) s = .next t ∧
    (∀ i, appendIndex s = some i → ∀ j, Memory.read t.img j = if j = i then b else Memory.read s.img j) ∧
    (appendIndex s = none → SameImage s t) ∧
    appendIndex s = (if s.len.toNat < 186 then some s.len.toNat else none) ∧
    t.len.toNat = (if s.len.toNat < 255 then s.len.toNat + 1 else 255) ∧ t.err = 0 ∧
    t.settings = s.settings ∧ t.view = s.view ∧ SameOutputs s t

/-- R124: WRB writes the byte at its index and no other, and does not change LEN; a word with an index of 186 or more
raises BadCommand and writes nothing. That `exec` of a WRB term with such an index does the same is the model's choice (log
entry 7, DEDUCED): the spec refuses the index at decode. -/
def Obligations.WrbWritesOneByte : Prop :=
  (∀ (idx : BitVec 12) (b : Byte), (encode (.wrb idx b)).toNat = 0x60000000 + idx.toNat * 2 ^ 16 + b.toNat) ∧
  (∀ (idx : BitVec 12) (b : Byte) (s : State), idx.toNat < 186 → ∃ t, exec (.wrb idx b) s = .next t ∧
    absoluteIndex idx = some idx.toNat ∧
    (∀ i, absoluteIndex idx = some i → ∀ j, Memory.read t.img j = if j = i then b else Memory.read s.img j) ∧
    t.err = 0 ∧ t.len = s.len ∧ t.settings = s.settings ∧ t.view = s.view ∧ SameOutputs s t) ∧
  (∀ (idx : BitVec 12) (b : Byte) (s : State), 186 ≤ idx.toNat →
    exec (.wrb idx b) s = .next { s with err := 3 }) ∧
  (∀ (w : Word) (s : State), opNum w = 6 → 186 ≤ aNum w → execWord w s = .next { s with err := 3 })

/-- R126: RDB puts the byte at its index into RDATA, zero-extended, whatever LEN is; a word with an index of 186 or more
raises BadCommand and leaves RDATA. That `exec` of an RDB term with such an index does the same is the model's choice (log
entry 7, DEDUCED): the spec refuses the index at decode. -/
def Obligations.RdbReadsOneByte : Prop :=
  (∀ idx : BitVec 12, (encode (.rdb idx)).toNat = 0x70000000 + idx.toNat * 2 ^ 16) ∧
  (∀ (idx : BitVec 12) (s : State), idx.toNat < 186 →
    exec (.rdb idx) s = .next { s with rdata := (Memory.read s.img idx.toNat).setWidth 16, err := 0 }) ∧
  (∀ (idx : BitVec 12) (s : State), 186 ≤ idx.toNat → exec (.rdb idx) s = .next { s with err := 3 }) ∧
  (∀ (w : Word) (s : State), opNum w = 7 → 186 ≤ aNum w → execWord w s = .next { s with err := 3 })

/-- R127: RDV puts the view register of its selector into RDATA; for all but x_max and y_max the upper 8 bits are zero;
a selector of 11 or more raises BadCommand and leaves RDATA. -/
def Obligations.RdvReadsOneViewRegister : Prop :=
  (∀ k : Field, (encode (.rdv k)).toNat = 0x90000000 + k.sel.toNat * 2 ^ 16) ∧
  (∀ s : State,
    exec (.rdv .protocolVersion) s = .next { s with rdata := s.view.protocolVersion.setWidth 16, err := 0 } ∧
    exec (.rdv .xMax) s = .next { s with rdata := s.view.xMax, err := 0 } ∧
    exec (.rdv .yMax) s = .next { s with rdata := s.view.yMax, err := 0 } ∧
    exec (.rdv .numTouchPoints) s = .next { s with rdata := s.view.numTouchPoints.setWidth 16, err := 0 } ∧
    exec (.rdv .moduleSwitch1) s = .next { s with rdata := s.view.moduleSwitch1.setWidth 16, err := 0 } ∧
    exec (.rdv .moduleSwitch2) s = .next { s with rdata := s.view.moduleSwitch2.setWidth 16, err := 0 } ∧
    exec (.rdv .shakeCount) s = .next { s with rdata := s.view.shakeCount.setWidth 16, err := 0 } ∧
    exec (.rdv .filterCoefficient) s = .next { s with rdata := s.view.filterCoefficient.setWidth 16, err := 0 } ∧
    exec (.rdv .touchThreshold) s = .next { s with rdata := s.view.touchThreshold.setWidth 16, err := 0 } ∧
    exec (.rdv .checksum) s = .next { s with rdata := s.view.checksum.setWidth 16, err := 0 } ∧
    exec (.rdv .configFresh) s = .next { s with rdata := s.view.configFresh.setWidth 16, err := 0 }) ∧
  (∀ (w : Word) (s : State), opNum w = 9 → 11 ≤ aNum w → execWord w s = .next { s with err := 3 })

/-- Doing a command twice is doing it once, for every command but PUSHB; while LEN is below 254 a second PUSHB does not
leave the state as it is; and RDB, DEC, CSUM and VERIFY change neither IMG nor LEN. R37 says so of RDB, DEC, CSUM, VERIFY,
WRB, CLRB and ENC; of NOP, SETF, VALID and RDV, and of a command that raises, it is derived from the commands' own
rules. -/
def Obligations.CommandsButPushbAreIdempotent : Prop :=
  (∀ (i : Instr) (s t : State), i.opcode ≠ .pushb → exec i s = .next t → exec i t = .next t) ∧
  (∀ (b : Byte) (s t : State), s.len.toNat < 254 → exec (.pushb b) s = .next t → exec (.pushb b) t ≠ .next t) ∧
  (∀ (i : Instr) (s t : State), i.opcode ∈ [Opcode.rdb, .dec, .csum, .verify] → exec i s = .next t →
    t.img = s.img ∧ t.len = s.len)

/-- R182 (the spec marks it as derived from R123): one byte after a whole image leaves the image and makes LEN 187, so
that DEC and VERIFY raise BufferLengthError; and of all commands only CLRB and ENC make a blob that is too long anything
else. -/
def Obligations.OverlongBlobStaysOverlong : Prop :=
  (∀ (b : Byte) (s : State), s.len.toNat = 186 → ∃ t, exec (.pushb b) s = .next t ∧
    SameImage s t ∧ t.len.toNat = 187 ∧
    exec .dec t = .next { t with err := 2 } ∧ exec .verify t = .next { t with vok := false, err := 2 }) ∧
  (∀ (i : Instr) (s t : State), 186 < s.len.toNat → i ≠ .clrb → i ≠ .enc → exec i s = .next t →
    186 < t.len.toNat)

/-! ## The validator -/

/-- R80: the predicate, and the set it defines: the even numbers 2, 4, ..., 4094. Only x_max and y_max are tested. -/
def Obligations.ValidResolutionsAreTheEvenNumbersTo4094 : Prop :=
  (∀ v : Int, validRes v = true ↔ 0 < v ∧ v ≤ 4095 ∧ v % 2 = 0) ∧
  (∀ v : Int, validRes v = true ↔ ∃ n : Nat, 1 ≤ n ∧ n ≤ 2047 ∧ v = 2 * (n : Int)) ∧
  (∀ st : Settings, validSettings st = true ↔ LegalResolutions st)

/-- R81: VALID puts the outcome of the validator into ERR and changes nothing else. -/
def Obligations.ValidReportsInErrAlone : Prop :=
  encode .valid = 0x20000000 ∧
  (∀ s : State, LegalResolutions s.settings → exec .valid s = .next { s with err := 0 }) ∧
  (∀ s : State, ¬ LegalResolutions s.settings → exec .valid s = .next { s with err := 1 })

/-- R82: after a VALID with ERR = 0 and with no SETF between, ENC does not raise; and the outcome of VALID does not
depend on touch_threshold, num_touch_points or filter_coefficient. -/
def Obligations.PassedValidationLetsEncComplete : Prop :=
  (∀ (s t u : State) (between : List Instr), exec .valid s = .next t → t.err = 0 →
    (∀ i ∈ between, i.opcode ≠ .setf) → execAll between t = .next u →
    ∃ v, exec .enc u = .next v ∧ v.err = 0) ∧
  (∀ (s t : State) (th n f : Half), exec .valid s = .next t →
    exec .valid { s with settings := ⟨s.settings.xMax, s.settings.yMax, th, n, f⟩ }
      = .next { t with settings := ⟨s.settings.xMax, s.settings.yMax, th, n, f⟩ })

/-! ## The encoder -/

/-- R85, R52: with legal resolutions ENC drives every image byte from the field mux, sets LEN to 186 and ERR to 0, and
changes nothing else; otherwise it sets ERR to 1 and changes nothing else. Byte 12 of a touch_threshold outside 0..255 and
byte 9 of a negative filter_coefficient, and byte 184 with them, rest on the spec's readings D12 and D13 (log entry 3,
DEDUCED). -/
def Obligations.EncDrivesTheImageFromTheFieldMux : Prop :=
  encode .enc = 0x30000000 ∧
  (∀ s : State, LegalResolutions s.settings → ∃ t, exec .enc s = .next t ∧
    (∀ i, Memory.read t.img i = if i < 186 then muxByte s.settings i else 0) ∧
    t.len = 186 ∧ t.err = 0 ∧ t.settings = s.settings ∧ t.view = s.view ∧ SameOutputs s t) ∧
  (∀ s : State, ¬ LegalResolutions s.settings → exec .enc s = .next { s with err := 1 })

/-- R86, R87, R88, R91: the bytes of x_max, y_max and num_touch_points as the arithmetic of their rules gives them,
with the bounds those rules state, and the constants and the reserved bytes. -/
def Obligations.EncStoresEachFieldByItsRule : Prop :=
  ∀ s : State, LegalResolutions s.settings → ∃ t, exec .enc s = .next t ∧
    ((Memory.read t.img 1).toNat : Int) = sval s.settings.xMax % 256 ∧
    ((Memory.read t.img 2).toNat : Int) = sval s.settings.xMax / 256 ∧
    (Memory.read t.img 1).toNat % 2 = 0 ∧ (Memory.read t.img 2).toNat ≤ 0x0F ∧
    ((Memory.read t.img 3).toNat : Int) = sval s.settings.yMax % 256 ∧
    ((Memory.read t.img 4).toNat : Int) = sval s.settings.yMax / 256 ∧
    (Memory.read t.img 3).toNat % 2 = 0 ∧ (Memory.read t.img 4).toNat ≤ 0x0F ∧
    ((Memory.read t.img 5).toNat : Int) = min (max (sval s.settings.numTouchPoints) 1) 10 ∧
    1 ≤ (Memory.read t.img 5).toNat ∧ (Memory.read t.img 5).toNat ≤ 10 ∧
    t.settings.numTouchPoints = s.settings.numTouchPoints ∧
    Memory.read t.img 0 = 0x01 ∧ Memory.read t.img 6 = 0x00 ∧ Memory.read t.img 7 = 0x00 ∧
    Memory.read t.img 8 = 0x03 ∧
    ∀ i, i = 10 ∨ i = 11 ∨ (13 ≤ i ∧ i ≤ 183) → Memory.read t.img i = 0x00

/-- R89: the stored filter_coefficient is the low 8 bits of its register, and the register itself stays; that a negative
one is masked in two's complement is the spec's reading (92_eei_decisions.md D13). -/
def Obligations.FilterIsMaskedToItsLowByte : Prop :=
  ∀ s : State, LegalResolutions s.settings → ∃ t, exec .enc s = .next t ∧
    ((Memory.read t.img 9).toNat : Int) = sval s.settings.filterCoefficient % 256 ∧
    Memory.read t.img 9 = s.settings.filterCoefficient.extractLsb' 0 8 ∧
    t.settings = s.settings

/-- R90: the stored touch_threshold is max(1, t) mod 256, and the reading that is not adopted gives another byte exactly
when t is a positive multiple of 256 or t is negative with t mod 256 above 1. Outside 0..255 this rests on the spec's
decision D12 (log entry 3). -/
def Obligations.ThresholdIsFlooredThenTruncated : Prop :=
  (∀ s : State, LegalResolutions s.settings → ∃ t, exec .enc s = .next t ∧
    ((Memory.read t.img 12).toNat : Int) = max 1 (sval s.settings.touchThreshold) % 256) ∧
  (∀ t : Int, storedThreshold .floorThenTruncate t = max 1 t % 256 ∧
    storedThreshold .truncateThenFloor t = max 1 (t % 256) ∧
    (storedThreshold .floorThenTruncate t ≠ storedThreshold .truncateThenFloor t ↔
      (256 ≤ t ∧ t % 256 = 0) ∨ (t < 0 ∧ 1 < t % 256))) ∧
  (∀ st : Settings, 0 ≤ sval st.touchThreshold → sval st.touchThreshold ≤ 255 →
    encodeImage .floorThenTruncate st = encodeImage .truncateThenFloor st)

/-- R92's closed form and R51 (both marked by the spec as derived from R85): the stored checksum is the negation of the
sum of the nine bytes that can be non-zero, and the image is well formed. -/
def Obligations.EncStoresAWellFormedImage : Prop :=
  ∀ s : State, LegalResolutions s.settings → ∃ t, exec .enc s = .next t ∧
    wellFormedImage t.img = true ∧
    (Memory.read t.img 184).toNat =
      (256 - (0x01 + (Memory.read t.img 1).toNat + (Memory.read t.img 2).toNat + (Memory.read t.img 3).toNat
        + (Memory.read t.img 4).toNat + (Memory.read t.img 5).toNat + 0x03 + (Memory.read t.img 9).toNat
        + (Memory.read t.img 12).toNat) % 256) % 256 ∧
    Memory.read t.img 185 = 0x01

/-- R93: the source's properties of an encoded image: (a) its length, (b) its sum, and that VERIFY passes, (c) the round
trip through DEC, (d) that it depends on the settings alone, (e) that a failed ENC changes ERR only. The recovered
touch_threshold outside 0..255 and the recovered negative filter_coefficient rest on the spec's readings D12 and D13 (log
entry 3, DEDUCED). -/
def Obligations.EncodedImageHasTheSourcesProperties : Prop :=
  (∀ s : State, LegalResolutions s.settings → ∃ t, exec .enc s = .next t ∧ t.err = 0 ∧
    t.len.toNat = 186 ∧
    byteSum (Memory.bytes t.img 185) % 256 = 0 ∧
    exec .verify t = .next { t with vok := true, err := 0 } ∧
    ∃ u, exec .dec t = .next u ∧ u.err = 0 ∧
      (u.view.xMax.toNat : Int) = sval s.settings.xMax ∧
      (u.view.yMax.toNat : Int) = sval s.settings.yMax ∧
      (u.view.numTouchPoints.toNat : Int) = min (max (sval s.settings.numTouchPoints) 1) 10 ∧
      (u.view.filterCoefficient.toNat : Int) = sval s.settings.filterCoefficient % 256 ∧
      (u.view.touchThreshold.toNat : Int) = max 1 (sval s.settings.touchThreshold) % 256 ∧
      u.view.protocolVersion = 0x01 ∧ u.view.moduleSwitch1 = 0x00 ∧ u.view.moduleSwitch2 = 0x00 ∧
      u.view.shakeCount = 0x03 ∧ u.view.checksum = Memory.read t.img 184 ∧ u.view.configFresh = 0x01) ∧
  (∀ s s' t t' : State, LegalResolutions s.settings → s.settings = s'.settings →
    exec .enc s = .next t → exec .enc s' = .next t' → t.img = t'.img) ∧
  (∀ s t : State, exec .enc s = .next t → t.err ≠ 0 → t = { s with err := t.err })

/-! ## The decoder -/

/-- R100, R53: with LEN = 186 DEC drives all eleven view registers from the field mux, with no check of any field, and
changes nothing else but ERR; with any other LEN it raises BufferLengthError and the view stays. -/
def Obligations.DecDrivesTheViewFromTheFieldMux : Prop :=
  encode .dec = 0x80000000 ∧
  (∀ s : State, s.len.toNat = 186 → ∃ t, exec .dec s = .next t ∧
    t.view = muxView (Memory.read s.img) ∧
    (t.view.xMax.toNat = (Memory.read s.img 1).toNat + 256 * (Memory.read s.img 2).toNat) ∧
    (t.view.yMax.toNat = (Memory.read s.img 3).toNat + 256 * (Memory.read s.img 4).toNat) ∧
    t.err = 0 ∧ t.settings = s.settings ∧ SameImage s t ∧ t.len = s.len ∧ SameOutputs s t) ∧
  (∀ s : State, s.len.toNat ≠ 186 → exec .dec s = .next { s with err := 2 })

/-- R103 (which the spec marks as derived from R100): images that differ only in reserved bytes decode to the same
view. -/
def Obligations.DecIgnoresReservedBytes : Prop :=
  ∀ (s : State) (m : Memory), s.len.toNat = 186 →
    (∀ i, i < 186 → ¬ (i = 10 ∨ i = 11 ∨ (13 ≤ i ∧ i ≤ 183)) → Memory.read m i = Memory.read s.img i) →
    ∃ t u, exec .dec s = .next t ∧ exec .dec { s with img := m } = .next u ∧ t.view = u.view

/-- R50, R38: the FieldLayout table with its device addresses, that its entries never overlap, and that the reserved
bytes 10, 11 and 13..183 are exactly the image bytes no entry covers. -/
def Obligations.FieldLayoutIsTheTable : Prop :=
  allFields.map (fun k => (k.sel.toNat, (fieldLayout k).startOffset, (fieldLayout k).width,
      deviceAddr (fieldLayout k).startOffset)) =
    [(0, 0, 1, 0x8047), (1, 1, 2, 0x8048), (2, 3, 2, 0x804A), (3, 5, 1, 0x804C), (4, 6, 1, 0x804D),
     (5, 7, 1, 0x804E), (6, 8, 1, 0x804F), (7, 9, 1, 0x8050), (8, 12, 1, 0x8053), (9, 184, 1, 0x80FF),
     (10, 185, 1, 0x8100)] ∧
  (∀ (k : Field), (fieldLayout k).byteOrder = some .littleEndian ↔ k = .xMax ∨ k = .yMax) ∧
  (∀ (j k : Field) (i : Nat), fieldCovers j i = true → fieldCovers k i = true → j = k) ∧
  (∀ i : Nat, reservedIndex i = true ↔ i = 10 ∨ i = 11 ∨ (13 ≤ i ∧ i ≤ 183))

/-! ## The checksum -/

/-- R110, R111: the checksum of 184 bytes is the two's-complement negation of their sum modulo 256, with the laws (a) to
(h) of R111. -/
def Obligations.ChecksumIsTheNegatedSum : Prop :=
  (∀ b : List Byte, b.length = 184 →
    (csum b).toNat = ((255 - byteSum b % 256) + 1) % 256 ∧
    (csum b).toNat = (256 - byteSum b % 256) % 256 ∧
    (byteSum b % 256 = 0 → csum b = 0) ∧
    (byteSum b % 256 ≠ 0 → (csum b).toNat = 256 - byteSum b % 256) ∧
    (byteSum b % 256 + (csum b).toNat) % 256 = 0 ∧
    byteSum b ≤ 46920 ∧
    csum b = -(b.foldl (fun acc x => acc + x) (0 : Byte))) ∧
  (∀ b c : List Byte, b.length = 184 → b.Perm c → csum b = csum c) ∧
  (∀ (b : List Byte) (i : Nat) (d : Byte), b.length = 184 → i < 184 →
    csum (b.set i (b.getD i 0 + d)) = csum b - d)

/-- R112: CSUM puts the checksum of bytes 0..183 into CSUM_OUT whatever LEN is, changes nothing else but ERR, and bytes
184 and 185 do not enter. -/
def Obligations.CsumReportsInCsumOut : Prop :=
  encode .csum = 0xA0000000 ∧
  (∀ s : State, exec .csum s = .next { s with csumOut := csum (Memory.bytes s.img 184), err := 0 }) ∧
  (∀ (s t u : State) (m : Memory), (∀ i, i < 184 → Memory.read m i = Memory.read s.img i) →
    exec .csum s = .next t → exec .csum { s with img := m } = .next u → t.csumOut = u.csumOut)

/-- R113: with LEN = 186 VERIFY puts into VOK whether byte 184 is the checksum of bytes 0..183, which is whether bytes
0..184 sum to 0 modulo 256, and ERR is 0; with any other LEN it clears VOK and raises BufferLengthError. -/
def Obligations.VerifyReportsInVok : Prop :=
  encode .verify = 0xB0000000 ∧
  (∀ s : State, s.len.toNat = 186 → ∃ v : Bool, exec .verify s = .next { s with vok := v, err := 0 } ∧
    (v = true ↔ csum (Memory.bytes s.img 184) = Memory.read s.img 184) ∧
    (v = true ↔ byteSum (Memory.bytes s.img 185) % 256 = 0)) ∧
  (∀ s : State, s.len.toNat ≠ 186 → exec .verify s = .next { s with vok := false, err := 2 })

/-- R115 (which the spec marks as derived from R110 and R113): after a VERIFY that passed, changing one of bytes 0..184
makes the next VERIFY fail; changing byte 185, or swapping two of bytes 0..183, does not. -/
def Obligations.VerifyDetectsOneChangedByte : Prop :=
  (∀ (s t : State) (idx : BitVec 12) (b : Byte), exec .verify s = .next t → t.vok = true →
    idx.toNat ≤ 184 → b ≠ Memory.read s.img idx.toNat →
    ∃ u, execAll [.wrb idx b, .verify] t = .next u ∧ u.vok = false ∧ u.err = 0) ∧
  (∀ (s t : State) (b : Byte), exec .verify s = .next t → t.vok = true →
    ∃ u, execAll [.wrb 185 b, .verify] t = .next u ∧ u.vok = true ∧ u.err = 0) ∧
  (∀ (s t : State) (i j : BitVec 12), exec .verify s = .next t → t.vok = true → i.toNat < 184 → j.toNat < 184 →
    ∃ u, execAll [.wrb i (Memory.read s.img j.toNat), .wrb j (Memory.read s.img i.toNat), .verify] t = .next u ∧
      u.vok = true ∧ u.err = 0)

/-- R116 (which the spec marks as derived from R112, R113 and R124): CSUM, then WRB of what CSUM_OUT shows to index 184,
makes VERIFY pass on a whole blob. -/
def Obligations.HostRepairsTheChecksum : Prop :=
  ∀ s : State, s.len.toNat = 186 → ∃ t u, exec .csum s = .next t ∧
    execAll [.wrb 184 t.outputs.csumOut, .verify] t = .next u ∧ u.vok = true ∧ u.err = 0

/-! ## Errors, state and the whole machine -/

/-- R145: a raise changes ERR and nothing else, but for VERIFY, which also clears VOK; of a command and of an illegal
word. -/
def Obligations.RaiseChangesErrAlone : Prop :=
  (∀ (i : Instr) (s t : State), exec i s = .next t → i ≠ .nop → t.err ≠ 0 →
    t = { s with err := t.err, vok := if i = .verify then false else s.vok }) ∧
  (∀ (w : Word) (why : Illegal) (s : State), decode w = .illegal why → execWord w s = .next { s with err := 3 })

/-- R140, R141, R142, R146: which word gives which error, and that every other command but NOP leaves ERR = 0. -/
def Obligations.EveryErrorHasItsCause : Prop :=
  (∀ (w : Word) (i : Instr) (s t : State), decode w = .instr i → i ≠ .nop → execWord w s = .next t →
    (t.err = 1 ↔ (i = .valid ∨ i = .enc) ∧ ¬ LegalResolutions s.settings) ∧
    (t.err = 2 ↔ (i = .dec ∨ i = .verify) ∧ s.len.toNat ≠ 186) ∧
    t.err ≠ 3) ∧
  (∀ (w : Word) (why : Illegal) (s t : State), decode w = .illegal why → execWord w s = .next t → t.err = 3)

/-- 10_state.md section 11 (the write columns of R25): each piece of state is written by the commands named for it and
by no other. -/
def Obligations.OnlyTheNamedCommandsWrite : Prop :=
  ∀ (i : Instr) (s t : State), exec i s = .next t →
    (i.opcode ≠ .setf → t.settings = s.settings) ∧
    (i.opcode ∉ [Opcode.enc, .clrb, .pushb, .wrb] → t.img = s.img) ∧
    (i.opcode ∉ [Opcode.enc, .clrb, .pushb] → t.len = s.len) ∧
    (i.opcode ≠ .dec → t.view = s.view) ∧
    (i.opcode = .nop → t.err = s.err) ∧
    (i.opcode ≠ .verify → t.vok = s.vok) ∧
    (i.opcode ≠ .csum → t.csumOut = s.csumOut) ∧
    (i.opcode ∉ [Opcode.rdb, .rdv] → t.rdata = s.rdata) ∧
    t.port = s.port

/-- 10_state.md section 11 (the read columns of R25): no command reads ERR, VOK, CSUM_OUT or RDATA; whatever they held,
a command gives the same state, up to those of them it does not write. -/
def Obligations.NoCommandReadsTheResultRegisters : Prop :=
  ∀ (i : Instr) (s t : State) (e : BitVec 2) (v : Bool) (c : Byte) (r : Half), exec i s = .next t →
    exec i { s with err := e, vok := v, csumOut := c, rdata := r } =
      .next { t with
        err := if i.opcode = .nop then e else t.err
        vok := if i.opcode = .verify then t.vok else v
        csumOut := if i.opcode = .csum then t.csumOut else c
        rdata := if (i.opcode = .rdb ∨ i.opcode = .rdv) ∧ t.err = 0 then t.rdata else r }

/-- 10_state.md section 11 (the read columns of R25): only VALID and ENC read the settings registers, and only RDV reads
the view: two states that differ there alone go to states that differ there alone, with the same outputs; SETF and a DEC
that succeeds replace what they write whatever it was. -/
def Obligations.SettingsAndViewDoNotLeak : Prop :=
  (∀ (i : Instr) (s t : State) (st : Settings), i.opcode ∉ [Opcode.setf, .valid, .enc] → exec i s = .next t →
    exec i { s with settings := st } = .next { t with settings := st }) ∧
  (∀ (k : Setting) (v : Half) (s t : State) (st : Settings), exec (.setf k v) s = .next t →
    exec (.setf k v) { s with settings := st } = .next { t with settings := st.set k v }) ∧
  (∀ (i : Instr) (s t : State) (vw : View), i.opcode ∉ [Opcode.rdv, .dec] → exec i s = .next t →
    exec i { s with view := vw } = .next { t with view := vw }) ∧
  (∀ (s t : State) (vw : View), exec .dec s = .next t →
    exec .dec { s with view := vw } = .next { t with view := if t.err = 0 then t.view else vw })

/-- R24: reset sets every bit of state to zero. -/
def Obligations.ResetIsAllZero : Prop :=
  (∀ k : Setting, State.reset.settings.get k = 0) ∧ (∀ i, Memory.read State.reset.img i = 0) ∧
  State.reset.len = 0 ∧ (∀ k : Field, State.reset.view.get k = 0) ∧ State.reset.err = 0 ∧
  State.reset.vok = false ∧ State.reset.csumOut = 0 ∧ State.reset.rdata = 0

/-- R24's consequences and R172's (both marked by the spec as derived): after reset VALID and ENC raise ValidationError,
DEC and VERIFY raise BufferLengthError, and RDV gives zero. -/
def Obligations.AfterResetNothingIsEncodedOrDecoded : Prop :=
  exec .valid State.reset = .next { State.reset with err := 1 } ∧
  exec .enc State.reset = .next { State.reset with err := 1 } ∧
  exec .dec State.reset = .next { State.reset with err := 2 } ∧
  exec .verify State.reset = .next { State.reset with err := 2 } ∧
  ∀ k : Field, exec (.rdv k) State.reset = .next State.reset

/-- R170: reset, applied in any state, gives the reset values; a command before it leaves no effect. What the host has
still to present is not the block's (log entry 1). -/
def Obligations.ResetForgetsEverything : Prop :=
  (∀ s : State, execAct .reset s = .next { State.reset with port := s.port }) ∧
  (∀ (w : Word) (s t : State), execWord w s = .next t → execAct .reset t = execAct .reset s)

/-- The image's canonical form at reset. The form (rising indices, no zero byte listed) is the model's own (log entry 4,
DESIGN CHOICE of form). -/
def Obligations.ResetImageIsCanonical : Prop := State.reset.Inv

/-- Every step keeps the image buffer in canonical form. Of that form, that no byte at index 186 or beyond is ever stored
is R39's; that the listed indices rise and no zero byte is listed is the model's own (log entry 4, DESIGN CHOICE of
form). -/
def Obligations.StepKeepsTheImageCanonical : Prop :=
  ∀ s t : State, s.Inv → step s = .next t → t.Inv ∧ ∀ i, 186 ≤ i → Memory.read t.img i = 0

/-- R185: every command terminates: every word in every state has a next state, and, with the model's port (log entry 1),
so has every step, and no run of any length stops. -/
def Obligations.EveryStepAnswers : Prop :=
  (∀ (w : Word) (s : State), ∃ t, execWord w s = .next t) ∧
  (∀ s : State, ∃ t, step s = .next t) ∧ (∀ (n : Nat) (s : State), SafeRun n s)

/-- Log entry 1 and R41: running the block on the words of a sequence of commands is applying the commands in order,
each to the state the one before it left. -/
def Obligations.RunAppliesTheCommandsInOrder : Prop :=
  ∀ (cmds : List Instr) (rest : List HostAct) (s : State), (∀ i ∈ cmds, i.wellFormed = true) →
    Host.Core.run Sys2Proof.core cmds.length
        { s with port := cmds.map (fun i => HostAct.command (encode i)) ++ rest }
      = execAll cmds { s with port := rest }

/-- R42: a step of one instance never changes another. The step of several instances is the model's own function (log
entry 8, DESIGN CHOICE), which sets one entry of a list; the statement says that it was written so. -/
def Obligations.InstancesShareNothing : Prop :=
  ∀ (k : Nat) (ms ms' : List State), stepInstance k ms = .next ms' →
    (∀ j, j ≠ k → ms'[j]? = ms[j]?) ∧
    (∀ s, ms[k]? = some s → ∃ t, step s = .next t ∧ ms'[k]? = some t)

/-! ## Sequences: the pseudo-instructions and the source's functions -/

/-- R64 (which the spec marks as derived from R122 and R123): after LOADIMG of any k bytes LEN is min(k, 255), index i
holds byte i below min(k, 186) and zero from there on, and nothing else but ERR changed. -/
def Obligations.LoadImgPresentsTheBlob : Prop :=
  ∀ (blob : List Byte) (s : State), ∃ t, execAll (loadImgSeq blob) s = .next t ∧
    t.len.toNat = min blob.length 255 ∧
    (∀ i, i < min blob.length 186 → some (Memory.read t.img i) = blob[i]?) ∧
    (∀ i, min blob.length 186 ≤ i → Memory.read t.img i = 0) ∧
    t.err = 0 ∧ t.settings = s.settings ∧ t.view = s.view ∧ SameOutputs s t

/-- R65 (derived): ENCODE from any state is the source's `encode` of the settings it supplies. Bytes 9 and 12 of the
source's blob for a negative filter_coefficient and a touch_threshold outside 0..255, and byte 184 with them, rest on the
spec's readings D13 and D12 (log entry 3, DEDUCED). -/
def Obligations.EncodeSequenceIsTheSourcesEncode : Prop :=
  ∀ (x y th n f : Half) (s : State), ∃ t, execAll (encodeSeq x y th n f) s = .next t ∧
    t.settings = ⟨x, y, th, n, f⟩ ∧ t.view = s.view ∧ SameOutputs s t ∧
    (∀ blob, sourceEncode ⟨x, y, th, n, f⟩ = some blob →
      t.err = 0 ∧ t.len.toNat = 186 ∧ Memory.bytes t.img 186 = blob) ∧
    (sourceEncode ⟨x, y, th, n, f⟩ = none → t.err = 1 ∧ t.img = s.img ∧ t.len = s.len)

/-- R65 (derived): DECODE of a blob of any length, from any state, is the source's `decode`. -/
def Obligations.DecodeSequenceIsTheSourcesDecode : Prop :=
  ∀ (blob : List Byte) (s : State), ∃ t, execAll (decodeSeq blob) s = .next t ∧
    (∀ v, sourceDecode blob = some v → t.err = 0 ∧ t.view = v) ∧
    (sourceDecode blob = none → t.err = 2 ∧ t.view = s.view)

/-- R65 (derived): `validate`, `compute` and `verify` of the source are VALIDATE, LOADIMG then CSUM, and LOADIMG then
VERIFY, from any state. -/
def Obligations.ValidateComputeVerifySequencesAreTheSources : Prop :=
  (∀ (x y : Half) (s : State), ∃ t, execAll (validateSeq x y) s = .next t ∧
    (t.err = 0 ↔ sourceValidate { s.settings with xMax := x, yMax := y } = true) ∧
    (t.err = 1 ↔ sourceValidate { s.settings with xMax := x, yMax := y } = false)) ∧
  (∀ (blob : List Byte) (s : State), blob.length = 184 → ∃ t,
    execAll (loadImgSeq blob ++ [.csum]) s = .next t ∧ t.csumOut = csum blob ∧ t.err = 0) ∧
  (∀ (blob : List Byte) (s : State), blob.length = 186 → ∃ t,
    execAll (loadImgSeq blob ++ [.verify]) s = .next t ∧ t.vok = sourceVerify blob ∧ t.err = 0)

/-! ## The assembler -/

/-- R63 ("it never produces an illegal word"): every word of an assembled line decodes to the command it was assembled
from. -/
def Obligations.AssemblerEmitsNoIllegalWord : Prop :=
  ∀ (line : List Char) (cmds : List Instr), assembleLine line = some cmds →
    assembleWords line = some (cmds.map encode) ∧ ∀ i ∈ cmds, decode (encode i) = .instr i

/-- R63's example column: each line of its table assembles to the word beside it. -/
def Obligations.AssemblerExamples : Prop :=
  assembleWords "NOP".toList = some [0x00000000] ∧
  assembleWords "SETF X_MAX, 1024".toList = some [0x10000400] ∧
  assembleWords "VALID".toList = some [0x20000000] ∧
  assembleWords "ENC".toList = some [0x30000000] ∧
  assembleWords "CLRB".toList = some [0x40000000] ∧
  assembleWords "PUSHB 0x58".toList = some [0x50000058] ∧
  assembleWords "WRB 184, 0x85".toList = some [0x60B80085] ∧
  assembleWords "RDB 184".toList = some [0x70B80000] ∧
  assembleWords "DEC".toList = some [0x80000000] ∧
  assembleWords "RDV Y_MAX".toList = some [0x90020000] ∧
  assembleWords "CSUM".toList = some [0xA0000000] ∧
  assembleWords "VERIFY".toList = some [0xB0000000] ∧
  assembleWords "SETF NTP, -3".toList = some [0x1003FFFD]
end

