-- ==== Sys2Proof/Laws/Bits.lean ====
section
/-! SUPPORT. The fields of a command word and the tables of names: each table and its inverse agree. -/

namespace Sys2Proof

@[simp] theorem opField_packWord (op : BitVec 4) (a : BitVec 12) (imm : Half) : opField (packWord op a imm) = op := by
  ext i hi
  simp only [opField, packWord, BitVec.getElem_extractLsb', BitVec.getLsbD_append]
  simp [BitVec.getLsbD_eq_getElem hi, show ¬ 28 + i < 16 by omega, show 28 + i - 16 - 12 = i by omega, show ¬ (28 + i - 16 < 12) by omega]

@[simp] theorem aField_packWord (op : BitVec 4) (a : BitVec 12) (imm : Half) : aField (packWord op a imm) = a := by
  ext i hi
  simp only [aField, packWord, BitVec.getElem_extractLsb', BitVec.getLsbD_append]
  simp [hi]

@[simp] theorem immField_packWord (op : BitVec 4) (a : BitVec 12) (imm : Half) :
    immField (packWord op a imm) = imm := by
  ext i hi
  simp only [immField, packWord, BitVec.getElem_extractLsb', BitVec.getLsbD_append]
  simp [hi]

/-- A word is its three fields put together. -/
theorem packWord_fields (w : Word) : packWord (opField w) (aField w) (immField w) = w := by
  ext i hi
  simp only [packWord, opField, aField, immField]
  rw [← BitVec.getLsbD_eq_getElem, ← BitVec.getLsbD_eq_getElem, BitVec.getLsbD_append, BitVec.getLsbD_append]
  simp only [BitVec.getLsbD_extractLsb']
  by_cases h1 : i < 16
  · simp [h1]
  · by_cases h2 : i < 28
    · simp [h1, show i - 16 < 12 by omega, show 16 + (i - 16) = i by omega]
    · simp [h1, show ¬ (i - 16 < 12) by omega, show i - 16 - 12 < 4 by omega,
        show 28 + (i - 16 - 12) = i by omega]

/-- Two words are equal exactly when their fields are. -/
theorem packWord_inj {op op' : BitVec 4} {a a' : BitVec 12} {imm imm' : Half} :
    packWord op a imm = packWord op' a' imm' ↔ op = op' ∧ a = a' ∧ imm = imm' := by
  constructor
  · intro h
    exact ⟨by simpa using congrArg opField h, by simpa using congrArg aField h, by simpa using congrArg immField h⟩
  · rintro ⟨rfl, rfl, rfl⟩; rfl

/-- Masking a word masks each field. -/
theorem packWord_and (op op' : BitVec 4) (a a' : BitVec 12) (imm imm' : Half) :
    packWord op a imm &&& packWord op' a' imm' = packWord (op &&& op') (a &&& a') (imm &&& imm') := by
  ext i hi
  simp only [packWord, ← BitVec.getLsbD_eq_getElem, BitVec.getLsbD_append, BitVec.getLsbD_and]
  split <;> [skip; split] <;> rfl

/-- The number a word is, from its fields. -/
theorem toNat_packWord (op : BitVec 4) (a : BitVec 12) (imm : Half) :
    (packWord op a imm).toNat = op.toNat * 2 ^ 28 + a.toNat * 2 ^ 16 + imm.toNat := by
  have ha := a.isLt
  have hi := imm.isLt
  unfold packWord
  rw [BitVec.toNat_append, BitVec.toNat_append, ← Nat.shiftLeft_add_eq_or_of_lt ha,
    ← Nat.shiftLeft_add_eq_or_of_lt hi, Nat.shiftLeft_eq, Nat.shiftLeft_eq]
  omega

/-- A byte immediate with zeros above it gives the byte back. -/
@[simp] theorem imm8Of_setWidth (b : Byte) : imm8Of (b.setWidth 16) = b := by
  ext i hi
  simp [imm8Of, BitVec.getLsbD_eq_getElem hi, show i < 16 by omega]

@[simp] theorem immHighOf_setWidth (b : Byte) : immHighOf (b.setWidth 16) = 0 := by
  ext i hi
  simp [immHighOf]

/-- An immediate whose high byte is zero is its low byte with zeros above it. -/
theorem setWidth_imm8Of {imm : Half} (h : immHighOf imm = 0) : (imm8Of imm).setWidth 16 = imm := by
  ext i hi
  by_cases h8 : i < 8
  · simp [imm8Of, h8, BitVec.getLsbD_eq_getElem hi]
  · have hz : (immHighOf imm).getLsbD (i - 8) = false := by simp [h]
    simp only [immHighOf, BitVec.getLsbD_extractLsb', show 8 + (i - 8) = i by omega] at hz
    simp [imm8Of, h8, BitVec.getLsbD_eq_getElem hi] at hz ⊢
    simpa [show i - 8 < 8 by omega] using hz

@[simp] theorem Opcode.ofBits_code (o : Opcode) : Opcode.ofBits o.code = some o := by cases o <;> rfl

/-- The opcode map is one to one. -/
theorem Opcode.ofBits_eq_some {b : BitVec 4} {o : Opcode} : Opcode.ofBits b = some o ↔ b = o.code := by
  constructor
  · revert b o; decide
  · rintro rfl; simp

@[simp] theorem Setting.ofSel_sel (k : Setting) : Setting.ofSel k.sel = some k := by cases k <;> rfl

@[simp] theorem Field.ofSel_sel (k : Field) : Field.ofSel k.sel = some k := by cases k <;> rfl

theorem Setting.ofSel_eq_some {a : BitVec 12} {k : Setting} : Setting.ofSel a = some k ↔ a = k.sel := by
  constructor
  · intro h
    unfold Setting.ofSel at h
    split at h <;> simp_all <;> subst h <;> exact BitVec.eq_of_toNat_eq (by simpa [Setting.sel])
  · rintro rfl; simp

theorem Field.ofSel_eq_some {a : BitVec 12} {k : Field} : Field.ofSel a = some k ↔ a = k.sel := by
  constructor
  · intro h
    unfold Field.ofSel at h
    split at h <;> simp_all <;> subst h <;> exact BitVec.eq_of_toNat_eq (by simpa [Field.sel])
  · rintro rfl; simp

/-- A settings selector is legal exactly when it is 0..4. -/
theorem Setting.ofSel_isSome (a : BitVec 12) : (Setting.ofSel a).isSome ↔ a.toNat < 5 := by
  unfold Setting.ofSel
  split <;> simp_all
  omega

/-- A view selector is legal exactly when it is 0..10. -/
theorem Field.ofSel_isSome (a : BitVec 12) : (Field.ofSel a).isSome ↔ a.toNat < 11 := by
  unfold Field.ofSel
  split <;> simp_all
  omega

theorem idxOf_eq_some {a i : BitVec 12} : idxOf a = some i ↔ a = i ∧ a.toNat < Config.imgLen := by
  by_cases h : a.toNat < Config.imgLen <;> simp [idxOf, h]

/-- What the decoder rejects: an opcode outside the map, or else a must-be-zero field or an operand out of range. -/
theorem decode_illegal_iff (w : Word) : (∃ why, decode w = .illegal why) ↔
    Opcode.ofBits (opField w) = none ∨ ∃ o, Opcode.ofBits (opField w) = some o ∧
      (o.format.zerosOk (aField w) (immField w) = false ∨
        decodeOperands o (aField w) (immField w) = none) := by
  unfold decode decodeFields
  cases ho : Opcode.ofBits (opField w) with
  | none => simp
  | some o =>
    cases hz : o.format.zerosOk (aField w) (immField w)
    · simp [hz]
    · simp only [if_true, reduceCtorEq, false_or, Option.some.injEq, exists_eq_left', hz]
      cases decodeOperands o (aField w) (immField w) <;> simp

end Sys2Proof
end

