-- ==== Sys2Proof/Laws/Checksum.lean ====
section
/-! SUPPORT. The checksum as a number (43_checksum.md R111). -/

namespace Sys2Proof.Machine

@[simp] theorem byteSum_nil : byteSum [] = 0 := rfl

@[simp] theorem byteSum_cons (b : Byte) (bs : List Byte) : byteSum (b :: bs) = b.toNat + byteSum bs := by
  simp [byteSum]

@[simp] theorem byteSum_append (bs cs : List Byte) : byteSum (bs ++ cs) = byteSum bs + byteSum cs := by
  simp [byteSum]

/-- The checksum as the negation of the sum. -/
theorem csum_eq_neg (b : List Byte) : csum b = -BitVec.ofNat 8 (byteSum b) := by
  simp [csum, BitVec.neg_eq_not_add]

/-- The checksum of two sequences is equal exactly when their sums agree modulo 256. -/
theorem csum_eq_iff (b c : List Byte) : csum b = csum c ↔ byteSum b % 256 = byteSum c % 256 := by
  simp [csum_eq_neg, ← BitVec.toNat_inj]

/-- Byte 184 is read at index 184. -/
theorem storedCsum_eq (m : Memory) : storedCsum m = Memory.read m 184 := by
  simp [storedCsum, getField, fieldLayout, Memory.readLE]

end Sys2Proof.Machine
end

