-- ==== Sys2Proof/Laws/State.lean ====
section
/-! SUPPORT. One lemma per field per update of State, each true by rfl, and the fields of the reset state. -/

namespace Sys2Proof.Machine

variable (s : State)

@[simp] theorem State.setSettings_settings (x : Settings) : (s.setSettings x).settings = x := rfl
@[simp] theorem State.setSettings_img (x : Settings) : (s.setSettings x).img = s.img := rfl
@[simp] theorem State.setSettings_len (x : Settings) : (s.setSettings x).len = s.len := rfl
@[simp] theorem State.setSettings_view (x : Settings) : (s.setSettings x).view = s.view := rfl
@[simp] theorem State.setSettings_err (x : Settings) : (s.setSettings x).err = s.err := rfl
@[simp] theorem State.setSettings_vok (x : Settings) : (s.setSettings x).vok = s.vok := rfl
@[simp] theorem State.setSettings_csumOut (x : Settings) : (s.setSettings x).csumOut = s.csumOut := rfl
@[simp] theorem State.setSettings_rdata (x : Settings) : (s.setSettings x).rdata = s.rdata := rfl
@[simp] theorem State.setSettings_port (x : Settings) : (s.setSettings x).port = s.port := rfl

@[simp] theorem State.setImg_settings (x : Memory) : (s.setImg x).settings = s.settings := rfl
@[simp] theorem State.setImg_img (x : Memory) : (s.setImg x).img = x := rfl
@[simp] theorem State.setImg_len (x : Memory) : (s.setImg x).len = s.len := rfl
@[simp] theorem State.setImg_view (x : Memory) : (s.setImg x).view = s.view := rfl
@[simp] theorem State.setImg_err (x : Memory) : (s.setImg x).err = s.err := rfl
@[simp] theorem State.setImg_vok (x : Memory) : (s.setImg x).vok = s.vok := rfl
@[simp] theorem State.setImg_csumOut (x : Memory) : (s.setImg x).csumOut = s.csumOut := rfl
@[simp] theorem State.setImg_rdata (x : Memory) : (s.setImg x).rdata = s.rdata := rfl
@[simp] theorem State.setImg_port (x : Memory) : (s.setImg x).port = s.port := rfl

@[simp] theorem State.setLen_settings (x : BitVec 8) : (s.setLen x).settings = s.settings := rfl
@[simp] theorem State.setLen_img (x : BitVec 8) : (s.setLen x).img = s.img := rfl
@[simp] theorem State.setLen_len (x : BitVec 8) : (s.setLen x).len = x := rfl
@[simp] theorem State.setLen_view (x : BitVec 8) : (s.setLen x).view = s.view := rfl
@[simp] theorem State.setLen_err (x : BitVec 8) : (s.setLen x).err = s.err := rfl
@[simp] theorem State.setLen_vok (x : BitVec 8) : (s.setLen x).vok = s.vok := rfl
@[simp] theorem State.setLen_csumOut (x : BitVec 8) : (s.setLen x).csumOut = s.csumOut := rfl
@[simp] theorem State.setLen_rdata (x : BitVec 8) : (s.setLen x).rdata = s.rdata := rfl
@[simp] theorem State.setLen_port (x : BitVec 8) : (s.setLen x).port = s.port := rfl

@[simp] theorem State.setView_settings (x : View) : (s.setView x).settings = s.settings := rfl
@[simp] theorem State.setView_img (x : View) : (s.setView x).img = s.img := rfl
@[simp] theorem State.setView_len (x : View) : (s.setView x).len = s.len := rfl
@[simp] theorem State.setView_view (x : View) : (s.setView x).view = x := rfl
@[simp] theorem State.setView_err (x : View) : (s.setView x).err = s.err := rfl
@[simp] theorem State.setView_vok (x : View) : (s.setView x).vok = s.vok := rfl
@[simp] theorem State.setView_csumOut (x : View) : (s.setView x).csumOut = s.csumOut := rfl
@[simp] theorem State.setView_rdata (x : View) : (s.setView x).rdata = s.rdata := rfl
@[simp] theorem State.setView_port (x : View) : (s.setView x).port = s.port := rfl

@[simp] theorem State.setErr_settings (x : BitVec 2) : (s.setErr x).settings = s.settings := rfl
@[simp] theorem State.setErr_img (x : BitVec 2) : (s.setErr x).img = s.img := rfl
@[simp] theorem State.setErr_len (x : BitVec 2) : (s.setErr x).len = s.len := rfl
@[simp] theorem State.setErr_view (x : BitVec 2) : (s.setErr x).view = s.view := rfl
@[simp] theorem State.setErr_err (x : BitVec 2) : (s.setErr x).err = x := rfl
@[simp] theorem State.setErr_vok (x : BitVec 2) : (s.setErr x).vok = s.vok := rfl
@[simp] theorem State.setErr_csumOut (x : BitVec 2) : (s.setErr x).csumOut = s.csumOut := rfl
@[simp] theorem State.setErr_rdata (x : BitVec 2) : (s.setErr x).rdata = s.rdata := rfl
@[simp] theorem State.setErr_port (x : BitVec 2) : (s.setErr x).port = s.port := rfl

@[simp] theorem State.setVok_settings (x : Bool) : (s.setVok x).settings = s.settings := rfl
@[simp] theorem State.setVok_img (x : Bool) : (s.setVok x).img = s.img := rfl
@[simp] theorem State.setVok_len (x : Bool) : (s.setVok x).len = s.len := rfl
@[simp] theorem State.setVok_view (x : Bool) : (s.setVok x).view = s.view := rfl
@[simp] theorem State.setVok_err (x : Bool) : (s.setVok x).err = s.err := rfl
@[simp] theorem State.setVok_vok (x : Bool) : (s.setVok x).vok = x := rfl
@[simp] theorem State.setVok_csumOut (x : Bool) : (s.setVok x).csumOut = s.csumOut := rfl
@[simp] theorem State.setVok_rdata (x : Bool) : (s.setVok x).rdata = s.rdata := rfl
@[simp] theorem State.setVok_port (x : Bool) : (s.setVok x).port = s.port := rfl

@[simp] theorem State.setCsumOut_settings (x : Byte) : (s.setCsumOut x).settings = s.settings := rfl
@[simp] theorem State.setCsumOut_img (x : Byte) : (s.setCsumOut x).img = s.img := rfl
@[simp] theorem State.setCsumOut_len (x : Byte) : (s.setCsumOut x).len = s.len := rfl
@[simp] theorem State.setCsumOut_view (x : Byte) : (s.setCsumOut x).view = s.view := rfl
@[simp] theorem State.setCsumOut_err (x : Byte) : (s.setCsumOut x).err = s.err := rfl
@[simp] theorem State.setCsumOut_vok (x : Byte) : (s.setCsumOut x).vok = s.vok := rfl
@[simp] theorem State.setCsumOut_csumOut (x : Byte) : (s.setCsumOut x).csumOut = x := rfl
@[simp] theorem State.setCsumOut_rdata (x : Byte) : (s.setCsumOut x).rdata = s.rdata := rfl
@[simp] theorem State.setCsumOut_port (x : Byte) : (s.setCsumOut x).port = s.port := rfl

@[simp] theorem State.setRdata_settings (x : Half) : (s.setRdata x).settings = s.settings := rfl
@[simp] theorem State.setRdata_img (x : Half) : (s.setRdata x).img = s.img := rfl
@[simp] theorem State.setRdata_len (x : Half) : (s.setRdata x).len = s.len := rfl
@[simp] theorem State.setRdata_view (x : Half) : (s.setRdata x).view = s.view := rfl
@[simp] theorem State.setRdata_err (x : Half) : (s.setRdata x).err = s.err := rfl
@[simp] theorem State.setRdata_vok (x : Half) : (s.setRdata x).vok = s.vok := rfl
@[simp] theorem State.setRdata_csumOut (x : Half) : (s.setRdata x).csumOut = s.csumOut := rfl
@[simp] theorem State.setRdata_rdata (x : Half) : (s.setRdata x).rdata = x := rfl
@[simp] theorem State.setRdata_port (x : Half) : (s.setRdata x).port = s.port := rfl

@[simp] theorem State.setPort_settings (x : List HostAct) : (s.setPort x).settings = s.settings := rfl
@[simp] theorem State.setPort_img (x : List HostAct) : (s.setPort x).img = s.img := rfl
@[simp] theorem State.setPort_len (x : List HostAct) : (s.setPort x).len = s.len := rfl
@[simp] theorem State.setPort_view (x : List HostAct) : (s.setPort x).view = s.view := rfl
@[simp] theorem State.setPort_err (x : List HostAct) : (s.setPort x).err = s.err := rfl
@[simp] theorem State.setPort_vok (x : List HostAct) : (s.setPort x).vok = s.vok := rfl
@[simp] theorem State.setPort_csumOut (x : List HostAct) : (s.setPort x).csumOut = s.csumOut := rfl
@[simp] theorem State.setPort_rdata (x : List HostAct) : (s.setPort x).rdata = s.rdata := rfl
@[simp] theorem State.setPort_port (x : List HostAct) : (s.setPort x).port = x := rfl

@[simp] theorem State.reset_settings : State.reset.settings = ⟨0, 0, 0, 0, 0⟩ := rfl
@[simp] theorem State.reset_img : State.reset.img = [] := rfl
@[simp] theorem State.reset_len : State.reset.len = 0 := rfl
@[simp] theorem State.reset_view : State.reset.view = ⟨0, 0, 0, 0, 0, 0, 0, 0, 0, 0, 0⟩ := rfl
@[simp] theorem State.reset_err : State.reset.err = 0 := rfl
@[simp] theorem State.reset_vok : State.reset.vok = false := rfl
@[simp] theorem State.reset_csumOut : State.reset.csumOut = 0 := rfl
@[simp] theorem State.reset_rdata : State.reset.rdata = 0 := rfl
@[simp] theorem State.reset_port : State.reset.port = [] := rfl

/-- Two states are equal when their fields are. -/
theorem State.ext_fields {s t : State} (h1 : s.settings = t.settings) (h2 : s.img = t.img) (h3 : s.len = t.len)
    (h4 : s.view = t.view) (h5 : s.err = t.err) (h6 : s.vok = t.vok) (h7 : s.csumOut = t.csumOut)
    (h8 : s.rdata = t.rdata) (h9 : s.port = t.port) : s = t := by
  cases s; cases t; simp_all

end Sys2Proof.Machine
end

