-- ==== Sys2Proof/Laws/Exec.lean ====
section
/-! SUPPORT. What each shared operation can do, said once: completing, raising, the three ways to reach the image, the
host's next act. -/

namespace Sys2Proof.Machine

/-- Completing always answers, with ERR = 0 and nothing else changed. -/
@[simp] theorem complete_eq_next {s t : State} : complete s = .next t ↔ t = s.setErr okCode := by
  simp [complete, eq_comm]

/-- Raising always answers, with the code in ERR and nothing else changed. -/
@[simp] theorem raise_eq_next {e : Error} {s t : State} : raise e s = .next t ↔ t = s.setErr e.code := by
  simp [raise, eq_comm]

/-- An absolute index is reached exactly when the operand is below 186, and it is the operand. -/
theorem absoluteIndex_eq_some {idx : BitVec 12} {i : Nat} :
    absoluteIndex idx = some i ↔ idx.toNat = i ∧ idx.toNat < Config.imgLen := by
  by_cases h : idx.toNat < Config.imgLen <;> simp [absoluteIndex, h]

/-- The append index is LEN exactly while LEN is below 186. -/
theorem appendIndex_eq_some {s : State} {i : Nat} :
    appendIndex s = some i ↔ s.len.toNat = i ∧ s.len.toNat < Config.imgLen := by
  by_cases h : s.len.toNat < Config.imgLen <;> simp [appendIndex, h]

/-- The counter goes up by one and stops at 255. -/
theorem countedLen_toNat (len : BitVec 8) : (countedLen len).toNat = min (len.toNat + 1) 255 := by
  have h := len.isLt
  unfold countedLen
  split
  · rw [BitVec.toNat_add]
    simp only [Config.lenMax] at *
    simp
    omega
  · simp only [Config.lenMax] at *
    omega

theorem takeAct_nil {s : State} (h : s.port = []) : s.takeAct = none := by simp [State.takeAct, h]

theorem takeAct_cons {s : State} {a : HostAct} {rest : List HostAct} (h : s.port = a :: rest) :
    s.takeAct = some (a, s.setPort rest) := by simp [State.takeAct, h]

/-- With nothing presented a step holds the state. -/
theorem step_idle {s : State} (h : s.port = []) : step s = .next s := by
  simp [step, runNextAct, takeAct_nil h]

/-- With an act presented a step executes it. -/
theorem step_act {s : State} {a : HostAct} {rest : List HostAct} (h : s.port = a :: rest) :
    step s = execAct a (s.setPort rest) := by
  simp [step, runNextAct, takeAct_cons h]

/-- A run whose first step answers goes on from there. -/
theorem run_succ_next {n : Nat} {s t : State} (h : step s = .next t) :
    Host.Core.run Sys2Proof.core (n + 1) s = Host.Core.run Sys2Proof.core n t := by
  have h' : Sys2Proof.core.step s = .next t := h
  simp only [Host.Core.run, h']

/-- A sequence whose first command answers goes on from there. -/
theorem execAll_cons_next {i : Instr} {rest : List Instr} {s t : State} (h : exec i s = .next t) :
    execAll (i :: rest) s = execAll rest t := by simp only [execAll, h]

/-- A sequence whose first part answers goes on from there. -/
theorem execAll_append_next {front rest : List Instr} {s t : State} (h : execAll front s = .next t) :
    execAll (front ++ rest) s = execAll rest t := by
  induction front generalizing s with
  | nil => simp [execAll] at h; simp [h]
  | cons i front ih =>
    simp only [execAll] at h
    split at h
    · rename_i u hu
      rw [List.cons_append, execAll_cons_next hu, ih h]
    · cases h
    · cases h

end Sys2Proof.Machine
end

