-- ==== Sys2Proof/Laws/Meanings.lean ====
section
/-! SUPPORT. One lemma per meaning: everything the command can answer. Claims about all commands are proved from these,
by cases on the command. -/

namespace Sys2Proof.Machine

theorem execNop_next {s t : State} : execNop s = .next t ↔ t = s := by simp [execNop, eq_comm]

theorem execSetf_next {k : Setting} {v : Half} {s t : State} :
    execSetf k v s = .next t ↔ t = (s.setSettings (s.settings.set k v)).setErr okCode := by simp [execSetf]

theorem execValid_next {s t : State} : execValid s = .next t ↔
    (validSettings s.settings = true ∧ t = s.setErr okCode) ∨
      (validSettings s.settings = false ∧ t = s.setErr Error.validationError.code) := by
  cases h : validSettings s.settings <;> simp [execValid, h]

theorem execEnc_next {s t : State} : execEnc s = .next t ↔
    (validSettings s.settings = true ∧
      t = ((s.setImg (encodeImage Config.thrOrder s.settings)).setLen wholeLen).setErr okCode) ∨
      (validSettings s.settings = false ∧ t = s.setErr Error.validationError.code) := by
  cases h : validSettings s.settings <;> simp [execEnc, h]

theorem execClrb_next {s t : State} :
    execClrb s = .next t ↔ t = ((s.setImg Memory.zero).setLen 0).setErr okCode := by simp [execClrb]

theorem execPushb_next {b : Byte} {s t : State} : execPushb b s = .next t ↔
    (s.len.toNat < Config.imgLen ∧
      t = ((s.setImg (Memory.write s.img s.len.toNat b)).setLen (countedLen s.len)).setErr okCode) ∨
      (Config.imgLen ≤ s.len.toNat ∧ t = (s.setLen (countedLen s.len)).setErr okCode) := by
  by_cases h : s.len.toNat < Config.imgLen
  · simp [execPushb, appendIndex, h]
  · simp [execPushb, appendIndex, h, Nat.not_lt.1 h]

theorem execWrb_next {idx : BitVec 12} {b : Byte} {s t : State} : execWrb idx b s = .next t ↔
    (idx.toNat < Config.imgLen ∧ t = (s.setImg (Memory.write s.img idx.toNat b)).setErr okCode) ∨
      (Config.imgLen ≤ idx.toNat ∧ t = s.setErr Error.badCommand.code) := by
  by_cases h : idx.toNat < Config.imgLen
  · simp [execWrb, absoluteIndex, h]
  · simp [execWrb, absoluteIndex, h, Nat.not_lt.1 h]

theorem execRdb_next {idx : BitVec 12} {s t : State} : execRdb idx s = .next t ↔
    (idx.toNat < Config.imgLen ∧ t = (s.setRdata (zext16 (Memory.read s.img idx.toNat))).setErr okCode) ∨
      (Config.imgLen ≤ idx.toNat ∧ t = s.setErr Error.badCommand.code) := by
  by_cases h : idx.toNat < Config.imgLen
  · simp [execRdb, absoluteIndex, h]
  · simp [execRdb, absoluteIndex, h, Nat.not_lt.1 h]

theorem execDec_next {s t : State} : execDec s = .next t ↔
    (s.len.toNat = Config.imgLen ∧ t = (s.setView (viewOf s.img)).setErr okCode) ∨
      (s.len.toNat ≠ Config.imgLen ∧ t = s.setErr Error.bufferLengthError.code) := by
  by_cases h : s.len.toNat = Config.imgLen <;> simp [execDec, wholeBlob, h]

theorem execRdv_next {k : Field} {s t : State} :
    execRdv k s = .next t ↔ t = (s.setRdata (s.view.get k)).setErr okCode := by simp [execRdv]

theorem execCsum_next {s t : State} :
    execCsum s = .next t ↔ t = (s.setCsumOut (imageCsum s.img)).setErr okCode := by simp [execCsum]

theorem execVerify_next {s t : State} : execVerify s = .next t ↔
    (s.len.toNat = Config.imgLen ∧ t = (s.setVok (checksumMatches s.img)).setErr okCode) ∨
      (s.len.toNat ≠ Config.imgLen ∧ t = (s.setVok false).setErr Error.bufferLengthError.code) := by
  by_cases h : s.len.toNat = Config.imgLen <;> simp [execVerify, wholeBlob, h]

end Sys2Proof.Machine
end

