-- ==== Sys2Proof/Laws/Memory.lean ====
section
/-! SUPPORT. The laws of the image buffer: reading after writing, and that every operation keeps the canonical form. -/

namespace Sys2Proof.Machine

@[simp] theorem Memory.read_zero (i : Nat) : Memory.read Memory.zero i = 0 := rfl

theorem Memory.read_cons (c : Host.Cell) (m : Memory) (i : Nat) :
    Memory.read (c :: m) i = if c.1 = i then c.2 else Memory.read m i := rfl

/-- Dropping the pairs of index i leaves every other index as it was, and i unlisted. -/
theorem Memory.read_filter_ne (m : Memory) (i j : Nat) :
    Memory.read (m.filter fun c => c.1 != i) j = if j = i then Memory.unlisted else Memory.read m j := by
  induction m with
  | nil => simp [Memory.read]
  | cons c m ih =>
    by_cases hc : c.1 = i
    · by_cases hj : j = i
      · simpa [hc, hj] using ih
      · have hij : i ≠ j := fun h => hj h.symm
        simpa [hc, hj, hij, Memory.read_cons] using ih
    · by_cases hj : c.1 = j
      · subst hj; simp [hc, Memory.read_cons]
      · simpa [hc, hj, Memory.read_cons] using ih

/-- Putting in a pair whose index is not listed changes that index alone. -/
theorem Memory.read_insert (m : Memory) (i j : Nat) (b : Byte) (h : ∀ c ∈ m, c.1 ≠ i) :
    Memory.read (Memory.insert i b m) j = if j = i then b else Memory.read m j := by
  induction m with
  | nil =>
    by_cases hj : j = i
    · simp [Memory.insert, Memory.read, hj]
    · have hij : i ≠ j := fun e => hj e.symm
      simp [Memory.insert, Memory.read, hj, hij]
  | cons c m ih =>
    have hc : c.1 ≠ i := h c (by simp)
    have ih' := ih fun d hd => h d (by simp [hd])
    by_cases hlt : i < c.1
    · by_cases hj : j = i
      · simp [Memory.insert, hlt, Memory.read_cons, hj]
      · have hij : i ≠ j := fun e => hj e.symm
        simp [Memory.insert, hlt, Memory.read_cons, hj, hij]
    · by_cases hj : c.1 = j
      · subst hj
        simp [Memory.insert, hlt, Memory.read_cons, hc]
      · simp [Memory.insert, hlt, Memory.read_cons, hj, ih']

/-- The one law of a write: it changes the byte at its index alone. -/
theorem Memory.read_write (m : Memory) (i j : Nat) (b : Byte) :
    Memory.read (Memory.write m i b) j = if j = i then b else Memory.read m j := by
  unfold Memory.write
  by_cases hb : b = Memory.unlisted
  · simp only [hb, if_true, Memory.read_filter_ne]
  · simp only [hb, if_false]
    rw [Memory.read_insert _ _ _ _ (by simp), Memory.read_filter_ne]
    by_cases hj : j = i <;> simp [hj]

@[simp] theorem Memory.read_write_self (m : Memory) (i : Nat) (b : Byte) :
    Memory.read (Memory.write m i b) i = b := by simp [Memory.read_write]

theorem Memory.read_write_of_ne (m : Memory) {i j : Nat} (b : Byte) (h : j ≠ i) :
    Memory.read (Memory.write m i b) j = Memory.read m j := by simp [Memory.read_write, h]

theorem Memory.filter_insert (m : Memory) (i : Nat) (b : Byte) (h : ∀ c ∈ m, c.1 ≠ i) :
    ((Memory.insert i b m).filter fun c => c.1 != i) = m := by
  induction m with
  | nil => simp [Memory.insert]
  | cons c m ih =>
    have hc : c.1 ≠ i := h c (by simp)
    have ih' := ih fun d hd => h d (by simp [hd])
    have hm : (m.filter fun d => d.1 != i) = m :=
      List.filter_eq_self.mpr fun d hd => by simpa using h d (by simp [hd])
    by_cases hlt : i < c.1
    · simp [Memory.insert, hlt, hc, hm]
    · simp [Memory.insert, hlt, hc, ih']

/-- A second write to the same index replaces the first, as lists and not only as reads. -/
theorem Memory.write_write (m : Memory) (i : Nat) (b b' : Byte) :
    Memory.write (Memory.write m i b) i b' = Memory.write m i b' := by
  have h : ((Memory.write m i b).filter fun c => c.1 != i) = m.filter fun c => c.1 != i := by
    unfold Memory.write
    by_cases hb : b = Memory.unlisted
    · simp [hb, List.filter_filter]
    · simp only [hb, if_false]
      exact Memory.filter_insert _ _ _ (by simp)
  unfold Memory.write at h ⊢
  simp only [h]

theorem Memory.wfFrom_cons (low : Nat) (c : Host.Cell) (m : Memory) :
    Memory.wfFrom low (c :: m) = true ↔
      low ≤ c.1 ∧ c.1 < Config.imgLen ∧ c.2 ≠ Memory.unlisted ∧ Memory.wfFrom (c.1 + 1) m = true := by
  simp [Memory.wfFrom, and_assoc]

theorem Memory.wfFrom_mono {low low' : Nat} (h : low' ≤ low) {m : Memory} (hm : Memory.wfFrom low m = true) :
    Memory.wfFrom low' m = true := by
  cases m with
  | nil => rfl
  | cons c m =>
    rw [Memory.wfFrom_cons] at hm ⊢
    exact ⟨h.trans hm.1, hm.2⟩

theorem Memory.wfFrom_filter (i : Nat) {m : Memory} : ∀ {low : Nat}, Memory.wfFrom low m = true →
    Memory.wfFrom low (m.filter fun c => c.1 != i) = true := by
  induction m with
  | nil => intro low _; rfl
  | cons c m ih =>
    intro low h
    obtain ⟨h1, h2, h3, h4⟩ := (Memory.wfFrom_cons _ _ _).1 h
    by_cases hc : c.1 = i
    · simpa [hc] using ih (Memory.wfFrom_mono (by omega : low ≤ c.1 + 1) h4)
    · simpa [hc, Memory.wfFrom_cons] using ⟨h1, h2, h3, ih h4⟩

theorem Memory.wfFrom_insert {i : Nat} {b : Byte} (hi : i < Config.imgLen) (hb : b ≠ Memory.unlisted) {m : Memory} :
    ∀ {low : Nat}, low ≤ i → (∀ c ∈ m, c.1 ≠ i) → Memory.wfFrom low m = true →
      Memory.wfFrom low (Memory.insert i b m) = true := by
  induction m with
  | nil => intro low hl _ _; simp [Memory.insert, Memory.wfFrom, hl, hi, hb]
  | cons c m ih =>
    intro low hl hne h
    obtain ⟨h1, h2, h3, h4⟩ := (Memory.wfFrom_cons _ _ _).1 h
    have hci : c.1 ≠ i := hne c (by simp)
    by_cases hlt : i < c.1
    · simp only [Memory.insert, hlt, if_true]
      exact (Memory.wfFrom_cons _ _ _).2 ⟨hl, hi, hb, (Memory.wfFrom_cons _ _ _).2 ⟨hlt, h2, h3, h4⟩⟩
    · simp only [Memory.insert, hlt, if_false]
      exact (Memory.wfFrom_cons _ _ _).2 ⟨h1, h2, h3, ih (by omega) (fun d hd => hne d (by simp [hd])) h4⟩

@[simp] theorem Memory.wf_zero : Memory.zero.wf = true := rfl

/-- A write inside the image keeps the canonical form. -/
theorem Memory.wf_write {m : Memory} {i : Nat} (b : Byte) (hi : i < Config.imgLen) (h : m.wf = true) :
    (Memory.write m i b).wf = true := by
  unfold Memory.write Memory.wf
  have hf := Memory.wfFrom_filter i h
  by_cases hb : b = Memory.unlisted
  · simpa [hb] using hf
  · simpa [hb] using Memory.wfFrom_insert hi hb (Nat.zero_le i) (by simp) hf

/-- A multi-byte write inside the image keeps the canonical form. -/
theorem Memory.wf_writeLE : ∀ (n : Nat) {m : Memory} {i : Nat} (v : Int), i + n ≤ Config.imgLen → m.wf = true →
    (Memory.writeLE m i n v).wf = true
  | 0, _, _, _, _, h => h
  | n + 1, _, _, _, hi, h => Memory.wf_writeLE n _ (by omega) (Memory.wf_write _ (by omega) h)

theorem Memory.read_of_wfFrom {m : Memory} : ∀ {low : Nat}, Memory.wfFrom low m = true → ∀ {i : Nat},
    i < low ∨ Config.imgLen ≤ i → Memory.read m i = Memory.unlisted := by
  induction m with
  | nil => intro _ _ _ _; rfl
  | cons c m ih =>
    intro low h i hi
    obtain ⟨h1, h2, _, h4⟩ := (Memory.wfFrom_cons _ _ _).1 h
    have hne : c.1 ≠ i := by omega
    rw [Memory.read_cons, if_neg hne]
    exact ih h4 (by omega)

/-- In canonical form nothing stands at index 186 or beyond. -/
theorem Memory.read_beyond {m : Memory} (h : m.wf = true) {i : Nat} (hi : Config.imgLen ≤ i) :
    Memory.read m i = 0 := Memory.read_of_wfFrom h (.inr hi)

/-- Equal images are equal data: two buffers in canonical form that read the same are the same list. -/
theorem Memory.ext_of_wf {m m' : Memory} (h : m.wf = true) (h' : m'.wf = true)
    (hr : ∀ i, Memory.read m i = Memory.read m' i) : m = m' := by
  suffices H : ∀ (m m' : Memory) (low : Nat), Memory.wfFrom low m = true → Memory.wfFrom low m' = true →
      (∀ i, Memory.read m i = Memory.read m' i) → m = m' from H m m' 0 h h' hr
  intro m
  induction m with
  | nil =>
    intro m' low _ h' hr
    cases m' with
    | nil => rfl
    | cons d m' =>
      obtain ⟨_, _, h3, _⟩ := (Memory.wfFrom_cons _ _ _).1 h'
      have := hr d.1
      simp [Memory.read] at this
      exact absurd this.symm h3
  | cons c m ih =>
    intro m' low h h' hr
    obtain ⟨h1, h2, h3, h4⟩ := (Memory.wfFrom_cons _ _ _).1 h
    cases m' with
    | nil =>
      have := hr c.1
      simp [Memory.read] at this
      exact absurd this h3
    | cons d m' =>
      obtain ⟨g1, g2, g3, g4⟩ := (Memory.wfFrom_cons _ _ _).1 h'
      have hcd : c.1 = d.1 := by
        rcases Nat.lt_trichotomy c.1 d.1 with hlt | heq | hgt
        · have := hr c.1
          rw [Memory.read_cons, if_pos rfl, Memory.read_cons, if_neg (by omega),
            Memory.read_of_wfFrom g4 (.inl (by omega))] at this
          exact absurd this h3
        · exact heq
        · have := hr d.1
          rw [Memory.read_cons, if_neg (by omega), Memory.read_cons, if_pos rfl,
            Memory.read_of_wfFrom h4 (.inl (by omega))] at this
          exact absurd this.symm g3
      have hb : c.2 = d.2 := by
        have := hr c.1
        rwa [Memory.read_cons, if_pos rfl, Memory.read_cons, if_pos hcd.symm] at this
      have hm : m = m' := ih m' (c.1 + 1) h4 (hcd ▸ g4) fun i => by
        by_cases hi : i = c.1
        · rw [Memory.read_of_wfFrom h4 (.inl (by omega)), Memory.read_of_wfFrom g4 (.inl (by omega))]
        · have := hr i
          rwa [Memory.read_cons, if_neg (by omega), Memory.read_cons, if_neg (by omega)] at this
      rw [hm, Prod.ext hcd hb]

@[simp] theorem Memory.readLE_one (m : Memory) (i : Nat) : Memory.readLE m i 1 = (Memory.read m i).toNat := by
  simp [Memory.readLE]

@[simp] theorem Memory.readLE_two (m : Memory) (i : Nat) :
    Memory.readLE m i 2 = (Memory.read m i).toNat + 256 * (Memory.read m (i + 1)).toNat := by
  simp [Memory.readLE]

@[simp] theorem Memory.writeLE_one (m : Memory) (i : Nat) (v : Int) :
    Memory.writeLE m i 1 v = Memory.write m i (BitVec.ofInt 8 v) := rfl

@[simp] theorem Memory.writeLE_two (m : Memory) (i : Nat) (v : Int) :
    Memory.writeLE m i 2 v =
      Memory.write (Memory.write m i (BitVec.ofInt 8 v)) (i + 1) (BitVec.ofInt 8 (v / 256)) := rfl

@[simp] theorem Memory.bytes_length (m : Memory) (n : Nat) : (Memory.bytes m n).length = n := by
  simp [Memory.bytes]

@[simp] theorem Memory.bytes_getElem (m : Memory) (n i : Nat) (h : i < (Memory.bytes m n).length) :
    (Memory.bytes m n)[i] = Memory.read m i := by simp [Memory.bytes]

/-- One byte more. -/
theorem Memory.bytes_succ (m : Memory) (n : Nat) :
    Memory.bytes m (n + 1) = Memory.bytes m n ++ [Memory.read m n] := by
  simp [Memory.bytes, List.range_succ]

/-- The first n bytes depend on those reads alone. -/
theorem Memory.bytes_congr {m m' : Memory} {n : Nat} (h : ∀ i, i < n → Memory.read m i = Memory.read m' i) :
    Memory.bytes m n = Memory.bytes m' n := by
  simpa [Memory.bytes] using h

end Sys2Proof.Machine
end

