-- ==== Sys2Proof/Laws/PerInstr.lean ====
section
/-! SUPPORT. Statements made once per constructor of `Instr`. The family `EncodeFields`: the fields of a command's word
are its opcode's number, its operand and its immediate, and the must-be-zero fields of its format are zero (30_encoding.md
R56, R57). -/

namespace Sys2Proof.Laws.EncodeFields

def Statement (i : Instr) : Prop :=
  opField (encode i) = i.opcode.code ∧ aField (encode i) = i.aOperand ∧ immField (encode i) = i.immOperand ∧
    i.opcode.format.zerosOk (aField (encode i)) (immField (encode i)) = true

theorem nop : Statement .nop := by simp [Statement, encode]; decide
theorem setf (k : Setting) (imm16 : Half) : Statement (.setf k imm16) := by
  simp [Statement, encode, Instr.opcode, Opcode.format, Format.zerosOk]
theorem valid : Statement .valid := by simp [Statement, encode]; decide
theorem enc : Statement .enc := by simp [Statement, encode]; decide
theorem clrb : Statement .clrb := by simp [Statement, encode]; decide
theorem pushb (imm8 : Byte) : Statement (.pushb imm8) := by
  simp [Statement, encode, Instr.opcode, Opcode.format, Format.zerosOk, Instr.aOperand, Instr.immOperand]
theorem wrb (idx : BitVec 12) (imm8 : Byte) : Statement (.wrb idx imm8) := by
  simp [Statement, encode, Instr.opcode, Opcode.format, Format.zerosOk, Instr.aOperand, Instr.immOperand]
theorem rdb (idx : BitVec 12) : Statement (.rdb idx) := by
  simp [Statement, encode, Instr.opcode, Opcode.format, Format.zerosOk, Instr.aOperand, Instr.immOperand]
theorem dec : Statement .dec := by simp [Statement, encode]; decide
theorem rdv (k : Field) : Statement (.rdv k) := by
  simp [Statement, encode, Instr.opcode, Opcode.format, Format.zerosOk, Instr.aOperand, Instr.immOperand]
theorem csum : Statement .csum := by simp [Statement, encode]; decide
theorem verify : Statement .verify := by simp [Statement, encode]; decide

end Sys2Proof.Laws.EncodeFields
end

