-- ==== Sys2Proof/Laws/Words.lean ====
section
/-! SUPPORT. The fields of a command word as the numbers claims speak of. -/

namespace Sys2Proof.Machine

theorem opNum_eq (w : Word) : opNum w = (opField w).toNat := by
  have := w.isLt
  simp [opNum, opField, BitVec.extractLsb'_toNat, Nat.shiftRight_eq_div_pow]
  omega

theorem aNum_eq (w : Word) : aNum w = (aField w).toNat := by
  simp [aNum, aField, BitVec.extractLsb'_toNat, Nat.shiftRight_eq_div_pow]

theorem immNum_eq (w : Word) : immNum w = (immField w).toNat := by
  simp [immNum, immField, BitVec.extractLsb'_toNat]

/-- A word's number from the numbers of its fields. -/
theorem toNat_eq_fields (w : Word) : w.toNat = opNum w * 2 ^ 28 + aNum w * 2 ^ 16 + immNum w := by
  unfold opNum aNum immNum
  omega

end Sys2Proof.Machine
end

