-- ==== Sys2Proof/Tests/Slice0.lean ====
section
/-! SUPPORT. Tests. The words and the results are those of the spec: the opcode map of 30_encoding.md R59 written out bit
by bit, and the vectors of 95_test_vectors.md, named by their ids. The theorems named witness_X show a state and operands
that meet the hypotheses of the obligation X, at the boundaries of its clauses. -/

namespace Sys2Proof.Machine

-- One theorem at a time: the evaluations below need less memory so.
set_option Elab.async false

/-! ## Small states -/

/-- The next state of a result, the reset state where there is none. -/
def stateOf (r : Result) : State :=
  match r with
  | .next t => t
  | .fault _ => State.reset
  | .refused _ => State.reset

/-- The settings of the source's concrete scenario (X1). -/
def scenario : Settings := ⟨1024, 600, 16, 5, 4⟩

/-- The image of the scenario (vector E1). -/
def scenarioImage : Memory :=
  [(0, 0x01), (2, 0x04), (3, 0x58), (4, 0x02), (5, 0x05), (8, 0x03), (9, 0x04), (12, 0x10), (184, 0x85), (185, 0x01)]

/-- The scenario's settings before ENC. -/
def ready : State := { State.reset with settings := scenario }

/-- The state after the scenario's ENC. -/
def encoded : State := { ready with img := scenarioImage, len := 186 }

/-- The state after one word. -/
def afterWord (w : Word) (s : State) : State := stateOf (execWord w s)

/-! ## Well-formedness -/

theorem test_wellFormed_wrb_refused : (Instr.wrb 186 0).wellFormed = false := by decide
theorem test_wellFormed_rdb_refused : (Instr.rdb 186).wellFormed = false := by decide
theorem test_wellFormed_accepted :
    (Instr.wrb 185 0xFF).wellFormed = true ∧ (Instr.rdb 185).wellFormed = true := by decide

/-! ## Decoding, each command's word from R57 and R59 -/

theorem test_decode_nop : decode 0b0000_000000000000_0000000000000000 = .instr .nop := by decide
theorem test_decode_setf :
    decode 0b0001_000000000011_1111111111111101 = .instr (.setf .numTouchPoints (BitVec.ofInt 16 (-3))) := by decide
theorem test_decode_valid : decode 0b0010_000000000000_0000000000000000 = .instr .valid := by decide
theorem test_decode_enc : decode 0b0011_000000000000_0000000000000000 = .instr .enc := by decide
theorem test_decode_clrb : decode 0b0100_000000000000_0000000000000000 = .instr .clrb := by decide
theorem test_decode_pushb : decode 0b0101_000000000000_0000000001011000 = .instr (.pushb 0x58) := by decide
theorem test_decode_wrb : decode 0b0110_000010111000_0000000010000101 = .instr (.wrb 184 0x85) := by decide
theorem test_decode_rdb : decode 0b0111_000010111001_0000000000000000 = .instr (.rdb 185) := by decide
theorem test_decode_dec : decode 0b1000_000000000000_0000000000000000 = .instr .dec := by decide
theorem test_decode_rdv : decode 0b1001_000000001010_0000000000000000 = .instr (.rdv .configFresh) := by decide
theorem test_decode_csum : decode 0b1010_000000000000_0000000000000000 = .instr .csum := by decide
theorem test_decode_verify : decode 0b1011_000000000000_0000000000000000 = .instr .verify := by decide

/-- The selectors of SETF in order (R11). -/
theorem test_decode_setf_selectors :
    [0x10000000, 0x10010000, 0x10020000, 0x10030000, 0x10040000].map decode =
      [.instr (.setf .xMax 0), .instr (.setf .yMax 0), .instr (.setf .touchThreshold 0),
       .instr (.setf .numTouchPoints 0), .instr (.setf .filterCoefficient 0)] := by decide

/-- The selectors of RDV in order (R16). -/
theorem test_decode_rdv_selectors :
    [0x90000000, 0x90010000, 0x90020000, 0x90030000, 0x90040000, 0x90050000, 0x90060000, 0x90070000, 0x90080000,
     0x90090000, 0x900A0000].map decode = allFields.map fun k => .instr (.rdv k) := by decide

/-- The illegal words I1 to I18, and the step of R60 that rejects each. -/
theorem test_decode_illegal :
    [0xC0000000, 0xFFFFFFFF, 0xD0000001, 0xE1230000].map decode = List.replicate 4 (.illegal .reservedOpcode) ∧
    [0x00000001, 0x00010000, 0x20000001, 0x30010000, 0x40000001, 0x80000100, 0xA0010000, 0xB000FFFF, 0x50000100,
     0x50010000, 0x60B80185, 0x70000001, 0x90010001].map decode = List.replicate 13 (.illegal .mustBeZero) ∧
    [0x10050000, 0x1FFF0000, 0x60BA0000, 0x70BA0000, 0x900B0000].map decode =
      List.replicate 5 (.illegal .operandRange) := by decide

/-- The host's question: a table word decodes, and the next step after reset runs it (VALID raises on zero settings,
S2 does the same with ENC). -/
theorem test_fetch_word : decodeTableWord 32 0x20000000 = some .valid ∧
    (stateOf (step (State.reset.withFetchWord 32 0x20000000))).err = 1 := by decide

/-! ## One step each, vectors of 95_test_vectors.md -/

/-- M2: NOP leaves the ERR of the VALID before it. -/
theorem test_nop_keeps_err : (afterWord 0x00000000 (afterWord 0x20000000 State.reset)).err = 1 := by decide
/-- M4. -/
theorem test_setf_negative : (afterWord 0x1003FFFD State.reset).settings = ⟨0, 0, 0, 0xFFFD, 0⟩ := by decide
/-- P4 #8: SETF clears the ERR that an illegal word left. -/
theorem test_setf_clears_err : (afterWord 0x10000321 (afterWord 0xC0000000 State.reset)).err = 0 := by decide
/-- A5, A6: the largest legal x_max, and one more. -/
theorem test_valid_boundary :
    (afterWord 0x20000000 { ready with settings := ⟨4094, 600, 0, 0, 0⟩ }).err = 0 ∧
    (afterWord 0x20000000 { ready with settings := ⟨4095, 600, 0, 0, 0⟩ }).err = 1 := by decide
/-- A9: an even negative x_max fails. -/
theorem test_valid_negative :
    (afterWord 0x20000000 { ready with settings := ⟨0xFFFE, 600, 0, 0, 0⟩ }).err = 1 := by decide
/-- E1: the source's concrete scenario. -/
theorem test_enc_scenario : (afterWord 0x30000000 ready).img = scenarioImage := by decide +kernel
/-- E9: negative threshold and count, wide filter; the checksum shows every byte. -/
theorem test_enc_adjusts :
    (afterWord 0x30000000 { ready with settings := ⟨1024, 600, 0xFFFB, 0xFFFD, 0x1234⟩ }).img =
      [(0, 0x01), (2, 0x04), (3, 0x58), (4, 0x02), (5, 0x01), (8, 0x03), (9, 0x34), (12, 0x01), (184, 0x68),
       (185, 0x01)] := by decide +kernel
/-- M14: CLRB zero-fills. -/
theorem test_clrb : (afterWord 0x40000000 encoded).img = [] ∧ (afterWord 0x40000000 encoded).len = 0 := by decide
/-- M15: a PUSHB reaching an index overwrites what WRB stored there. -/
theorem test_pushb_overwrites :
    (afterWord 0x50000004 { State.reset with img := [(0, 1), (1, 2), (2, 3), (3, 7)], len := 3 }).img =
      [(0, 1), (1, 2), (2, 3), (3, 4)] := by decide
/-- M9, M10: the 187th byte is discarded and counted; the count stops at 255. -/
theorem test_pushb_past_the_end :
    (afterWord 0x50000022 encoded).img = scenarioImage ∧ (afterWord 0x50000022 encoded).len = 187 ∧
    (afterWord 0x50000011 { encoded with len := 255 }).len = 255 := by decide
/-- M11. -/
theorem test_wrb : (afterWord 0x60B80085 State.reset).img = [(184, 0x85)] := by decide
/-- Writing zero removes the entry; the others stay. -/
theorem test_wrb_zero : (afterWord 0x600C0000 encoded).img = scenarioImage.filter fun c => c.1 != 12 := by decide
/-- M17. -/
theorem test_rdb : (afterWord 0x70030000 encoded).rdata = 0x0058 := by decide
/-- I15 on the state of P1: RDATA stays. -/
theorem test_rdb_illegal :
    (afterWord 0x70BA0000 { encoded with rdata := 0x0010 }) = { encoded with rdata := 0x0010, err := 3 } := by decide
/-- P1 #9: the view of the scenario. -/
theorem test_dec : (afterWord 0x80000000 encoded).view =
    ⟨0x01, 0x0400, 0x0258, 0x05, 0x00, 0x00, 0x03, 0x04, 0x10, 0x85, 0x01⟩ := by decide
/-- D7: one byte too long. -/
theorem test_dec_too_long : (afterWord 0x80000000 { encoded with len := 187 }).err = 2 ∧
    (afterWord 0x80000000 { encoded with len := 187 }).view = State.reset.view := by decide
/-- M18. -/
theorem test_rdv : (afterWord 0x90020000 (afterWord 0x80000000 encoded)).rdata = 0x0258 := by decide
/-- C7. -/
theorem test_csum : (afterWord 0xA0000000 encoded).csumOut = 0x85 := by decide +kernel
/-- C9, C10: byte 183 is the last covered byte. -/
theorem test_csum_span : (afterWord 0xA0000000 { State.reset with img := [(183, 1)] }).csumOut = 0xFF ∧
    (afterWord 0xA0000000 { State.reset with img := [(184, 0x55), (185, 0x66)] }).csumOut = 0x00 := by decide +kernel
/-- F1, F2. -/
theorem test_verify : (afterWord 0xB0000000 encoded).vok = true ∧
    (afterWord 0xB0000000 (afterWord 0x600C0011 encoded)).vok = false := by decide +kernel
/-- F10: a VERIFY that fails on length clears VOK. -/
theorem test_verify_length : (afterWord 0xB0000000 { encoded with len := 187, vok := true }).vok = false ∧
    (afterWord 0xB0000000 { encoded with len := 187, vok := true }).err = 2 := by decide
/-- S5: reset from a state that is not zero. -/
theorem test_reset_act : stateOf (execAct .reset encoded) = State.reset := by decide
/-- R64, R63: a pseudo-instruction line, a comment, and lines an assembler refuses. -/
theorem test_assembler_lines :
    assembleWords "LOADIMG 1, 0x20 ; two bytes".toList = some [0x40000000, 0x50000001, 0x50000020] ∧
    assembleWords "  ; nothing".toList = some [] ∧
    assembleWords "PUSHB 256".toList = none ∧ assembleWords "RDB 186".toList = none ∧
    assembleWords "PUSHB -1".toList = none ∧ assembleWords "SETF FRESH, 1".toList = none ∧
    assembleWords "nop".toList = none := by decide

/-! ## Witnesses -/

theorem witness_StepRunsTheDecodedCommand :
    (presentWord 0x20000000 encoded).port = .command 0x20000000 :: [] ∧ decode 0x20000000 = .instr .valid ∧
    (presentWord 0xC0000000 encoded).port = .command 0xC0000000 :: [] ∧
    decode 0xC0000000 = .illegal .reservedOpcode ∧
    (encoded.setPort [.reset]).port = .reset :: [] ∧ encoded.port = [] := by decide

theorem witness_PresentedTableWordRunsNext : decode 0xB0000000 = .instr .verify := by decide

theorem witness_IllegalWordsAreThoseListed : ListedIllegal 0xC0000000 ∧ ListedIllegal 0x08000000 ∧
    ListedIllegal 0x50000100 ∧ ListedIllegal 0x60000100 ∧ ListedIllegal 0x60BA0000 ∧ ListedIllegal 0x70BA0000 ∧
    ListedIllegal 0x900B0000 ∧ ListedIllegal 0x10050000 ∧ ¬ ListedIllegal 0x60B900FF := by
  refine ⟨?_, ?_, ?_, ?_, ?_, ?_, ?_, ?_, ?_⟩ <;> unfold ListedIllegal <;> decide

theorem witness_DecodeOfEncodeIsTheCommand : (Instr.wrb 185 0xFF).wellFormed = true := by decide

theorem witness_LegalWordsAreEncodings : decode 0x60B900FF = .instr (.wrb 185 0xFF) := by decide

theorem witness_LegalWordMatchesItsRowAlone :
    decode 0x60B900FF = .instr (.wrb 185 0xFF) ∧ ⟨.wrb, 0xF000FF00, 0x60000000⟩ ∈ opcodeRows ∧
    ⟨.rdb, 0xF000FFFF, 0x70000000⟩ ∈ opcodeRows := by decide

theorem witness_SetfWritesOneRegister :
    opNum 0x10050000 = 1 ∧ aNum 0x10050000 = 5 ∧ Setting.yMax ≠ Setting.xMax := by decide

theorem witness_ClrbEmptiesTheImage : (185 : BitVec 12).toNat < 186 := by decide

/-- LEN at 185 (stored), 186 (discarded) and 255 (not counted either). -/
theorem witness_PushbAppendsOneByte :
    appendIndex { encoded with len := 185 } = some 185 ∧ appendIndex encoded = none ∧
    appendIndex { encoded with len := 255 } = none := by decide

theorem witness_WrbWritesOneByte : (185 : BitVec 12).toNat < 186 ∧ 186 ≤ (186 : BitVec 12).toNat ∧
    absoluteIndex 185 = some 185 ∧ opNum 0x60BA0000 = 6 ∧ 186 ≤ aNum 0x60BA0000 := by decide

theorem witness_RdbReadsOneByte : (185 : BitVec 12).toNat < 186 ∧ 186 ≤ (186 : BitVec 12).toNat ∧
    opNum 0x70BA0000 = 7 ∧ 186 ≤ aNum 0x70BA0000 := by decide

theorem witness_RdvReadsOneViewRegister : opNum 0x900B0000 = 9 ∧ 11 ≤ aNum 0x900B0000 := by decide

theorem witness_CommandsButPushbAreIdempotent :
    Instr.csum.opcode ≠ .pushb ∧ exec .valid State.reset = .next { State.reset with err := 1 } ∧
    ({ State.reset with len := 253 } : State).len.toNat < 254 ∧
    (∃ t, exec (.pushb 0) { State.reset with len := 253 } = .next t) ∧
    Instr.dec.opcode ∈ [Opcode.rdb, .dec, .csum, .verify] ∧ (∃ t, exec .dec encoded = .next t) :=
  ⟨by decide, rfl, by decide, ⟨_, rfl⟩, by decide, ⟨_, rfl⟩⟩

theorem witness_OverlongBlobStaysOverlong :
    encoded.len.toNat = 186 ∧ 186 < ({ encoded with len := 187 } : State).len.toNat ∧
    exec .nop { encoded with len := 187 } = .next { encoded with len := 187 } := ⟨by decide, by decide, rfl⟩

theorem witness_legalResolutions : LegalResolutions scenario := by unfold LegalResolutions; decide

theorem witness_illegalResolutions : ¬ LegalResolutions State.reset.settings := by unfold LegalResolutions; decide

/-- The hypotheses of ValidReportsInErrAlone and of the encoder's statements, at both ends of the legal range. -/
theorem witness_ValidReportsInErrAlone :
    LegalResolutions ready.settings ∧ LegalResolutions ⟨2, 4094, 0, 0, 0⟩ ∧
    ¬ LegalResolutions ⟨0, 600, 0, 0, 0⟩ ∧ ¬ LegalResolutions ⟨1024, 4096, 0, 0, 0⟩ := by
  unfold LegalResolutions; decide

theorem witness_PassedValidationLetsEncComplete :
    exec .valid ready = .next ready ∧ ready.err = 0 ∧ (∀ i ∈ [Instr.clrb], i.opcode ≠ .setf) ∧
    execAll [.clrb] ready = .next ready := ⟨rfl, rfl, by decide, rfl⟩

theorem witness_EncDrivesTheImageFromTheFieldMux :
    LegalResolutions ready.settings ∧ ¬ LegalResolutions State.reset.settings :=
  ⟨witness_legalResolutions, witness_illegalResolutions⟩

theorem witness_EncStoresEachFieldByItsRule : LegalResolutions ready.settings ∧ (13 ≤ 183 ∧ 183 ≤ 183) :=
  ⟨witness_legalResolutions, by decide⟩

theorem witness_FilterIsMaskedToItsLowByte :
    LegalResolutions ready.settings ∧ LegalResolutions ⟨4094, 2, 0, 0, 0xFF00⟩ :=
  ⟨witness_legalResolutions, by unfold LegalResolutions; decide⟩

theorem witness_ThresholdIsFlooredThenTruncated :
    LegalResolutions ready.settings ∧ 0 ≤ sval (⟨1024, 600, 0, 5, 4⟩ : Settings).touchThreshold ∧
    sval (⟨1024, 600, 255, 5, 4⟩ : Settings).touchThreshold ≤ 255 :=
  ⟨witness_legalResolutions, by decide, by decide⟩

theorem witness_EncStoresAWellFormedImage : LegalResolutions ready.settings := witness_legalResolutions

theorem witness_EncodedImageHasTheSourcesProperties :
    LegalResolutions ready.settings ∧ ready.settings = ({ ready with err := 3 } : State).settings ∧
    (∃ t, exec .enc ready = .next t) ∧ (∃ t, exec .enc { ready with err := 3 } = .next t) ∧
    exec .enc State.reset = .next { State.reset with err := 1 } ∧ ({ State.reset with err := 1 } : State).err ≠ 0 :=
  ⟨witness_legalResolutions, rfl, ⟨_, rfl⟩, ⟨_, rfl⟩, rfl, by decide⟩

theorem witness_DecDrivesTheViewFromTheFieldMux :
    encoded.len.toNat = 186 ∧ ({ encoded with len := 185 } : State).len.toNat ≠ 186 ∧
    ({ encoded with len := 187 } : State).len.toNat ≠ 186 := by decide

/-- A buffer that differs from the scenario's in a reserved byte. -/
theorem witness_DecIgnoresReservedBytes : encoded.len.toNat = 186 ∧
    ∀ i, i < 186 → ¬ (i = 10 ∨ i = 11 ∨ (13 ≤ i ∧ i ≤ 183)) →
      Memory.read ((183, 0x55) :: scenarioImage) i = Memory.read encoded.img i := by
  refine ⟨by decide, fun i _ hi => ?_⟩
  have h : (183 : Nat) ≠ i := by omega
  simp [Memory.read, h, encoded]

theorem witness_FieldLayoutIsTheTable : fieldCovers .xMax 2 = true ∧ fieldCovers .configFresh 185 = true := by decide

theorem witness_ChecksumIsTheNegatedSum :
    (List.replicate 184 (0xFF : Byte)).length = 184 ∧
    (List.replicate 184 (0xFF : Byte)).Perm (List.replicate 184 (0xFF : Byte)) ∧ 183 < 184 :=
  ⟨List.length_replicate, .refl _, by decide⟩

/-- S = 0 and S ≠ 0, the two clauses of R111 (b) and (c). -/
theorem witness_ChecksumIsTheNegatedSum_clauses :
    byteSum (List.replicate 184 (0x00 : Byte)) % 256 = 0 ∧ byteSum (List.replicate 184 (0xFF : Byte)) % 256 ≠ 0 := by
  decide +kernel

theorem witness_CsumReportsInCsumOut :
    (∀ i, i < 184 → Memory.read ((184, 0x55) :: scenarioImage) i = Memory.read encoded.img i) ∧
    (∃ t, exec .csum encoded = .next t) ∧ (∃ t, exec .csum { encoded with img := (184, 0x55) :: scenarioImage } = .next t) := by
  refine ⟨fun i hi => ?_, ⟨_, rfl⟩, ⟨_, rfl⟩⟩
  have h : (184 : Nat) ≠ i := by omega
  simp [Memory.read, h, encoded]

theorem witness_VerifyReportsInVok :
    encoded.len.toNat = 186 ∧ ({ encoded with len := 185 } : State).len.toNat ≠ 186 := by decide

/-- A VERIFY that passed, an index at the end of the covered range and a byte that differs there. -/
theorem witness_VerifyDetectsOneChangedByte :
    (stateOf (exec .verify encoded)).vok = true ∧ (184 : BitVec 12).toNat ≤ 184 ∧
    (0x84 : Byte) ≠ Memory.read encoded.img 184 ∧ (183 : BitVec 12).toNat < 184 := by decide +kernel

theorem witness_VerifyDetectsOneChangedByte_exec : ∃ t, exec .verify encoded = .next t := ⟨_, rfl⟩

theorem witness_HostRepairsTheChecksum : encoded.len.toNat = 186 := by decide

theorem witness_RaiseChangesErrAlone :
    exec .verify State.reset = .next { State.reset with err := 2 } ∧ Instr.verify ≠ .nop ∧
    ({ State.reset with err := 2 } : State).err ≠ 0 ∧ decode 0x10050000 = .illegal .operandRange :=
  ⟨rfl, by decide, by decide, by decide⟩

theorem witness_EveryErrorHasItsCause :
    decode 0x30000000 = .instr .enc ∧ Instr.enc ≠ .nop ∧
    execWord 0x30000000 State.reset = .next { State.reset with err := 1 } ∧
    decode 0x70BA0000 = .illegal .operandRange ∧
    execWord 0x70BA0000 State.reset = .next { State.reset with err := 3 } := ⟨by decide, by decide, rfl, by decide, rfl⟩

theorem witness_OnlyTheNamedCommandsWrite :
    exec (.rdv .xMax) encoded = .next { encoded with rdata := 0, err := 0 } ∧ (Instr.rdv .xMax).opcode ≠ .setf ∧
    Instr.nop.opcode = .nop ∧ exec .nop encoded = .next encoded := ⟨rfl, by decide, rfl, rfl⟩

theorem witness_NoCommandReadsTheResultRegisters : exec .clrb State.reset = .next State.reset := rfl

theorem witness_SettingsAndViewDoNotLeak :
    exec .dec State.reset = .next { State.reset with err := 2 } ∧
    Instr.dec.opcode ∉ [Opcode.setf, .valid, .enc] ∧
    exec .enc State.reset = .next { State.reset with err := 1 } ∧ Instr.enc.opcode ∉ [Opcode.rdv, .dec] ∧
    (∃ t, exec (.setf .xMax 1) State.reset = .next t) ∧ (∃ t, exec .dec encoded = .next t) :=
  ⟨rfl, by decide, rfl, by decide, ⟨_, rfl⟩, ⟨_, rfl⟩⟩

theorem witness_ResetForgetsEverything : ∃ t, execWord 0x30000000 ready = .next t := ⟨_, rfl⟩

theorem witness_StepKeepsTheImageCanonical :
    State.Inv (presentWord 0x600C0011 encoded) ∧ ∃ t, step (presentWord 0x600C0011 encoded) = .next t :=
  ⟨by unfold State.Inv; decide, ⟨_, rfl⟩⟩

theorem witness_RunAppliesTheCommandsInOrder :
    ∀ i ∈ [Instr.wrb 185 1, .rdb 185, .enc], i.wellFormed = true := by decide

theorem witness_InstancesShareNothing :
    stepInstance 1 [encoded, State.reset] = .next [encoded, State.reset] ∧ (0 : Nat) ≠ 1 ∧
    [encoded, State.reset][1]? = some State.reset := ⟨rfl, by decide, rfl⟩

/-- Blobs of 0, 186, 187 and 256 bytes: the first index past a short blob, the last stored index, and the lengths at which
IMG and LEN stop following the count. -/
theorem witness_LoadImgPresentsTheBlob :
    min ([] : List Byte).length 186 ≤ 0 ∧
    185 < min (List.replicate 186 (0x11 : Byte)).length 186 ∧
    min (List.replicate 187 (0x11 : Byte)).length 186 ≤ 186 ∧ min (List.replicate 187 (0x11 : Byte)).length 255 = 187 ∧
    185 < min (List.replicate 256 (0x11 : Byte)).length 186 ∧
    min (List.replicate 256 (0x11 : Byte)).length 255 = 255 := by
  simp only [List.length_replicate]; decide

theorem witness_EncodeSequenceIsTheSourcesEncode :
    (∃ blob, sourceEncode scenario = some blob) ∧ sourceEncode ⟨801, 600, 16, 5, 4⟩ = none := ⟨⟨_, rfl⟩, rfl⟩

theorem witness_DecodeSequenceIsTheSourcesDecode :
    (∃ v, sourceDecode (List.replicate 186 0xFF) = some v) ∧ sourceDecode [] = none :=
  ⟨⟨muxView (blobByte (List.replicate 186 0xFF)), by rw [sourceDecode, if_pos List.length_replicate]⟩, rfl⟩

theorem witness_ValidateComputeVerifySequencesAreTheSources :
    (List.replicate 184 (0x11 : Byte)).length = 184 ∧ (List.replicate 186 (0x11 : Byte)).length = 186 :=
  ⟨List.length_replicate, List.length_replicate⟩

theorem witness_AssemblerEmitsNoIllegalWord :
    assembleLine "WRB 184, 0x85".toList = some [.wrb 184 0x85] := by decide

end Sys2Proof.Machine
end

section
/-! The reset state read through the model's accessors (10_state.md R24), and the statements about it. -/

namespace Sys2Proof.Machine

/-- Every selector of SETF reads zero in the reset settings. -/
theorem State.reset_settings_get (k : Setting) : State.reset.settings.get k = 0 := by
  cases k <;> rfl

/-- Every selector of RDV reads zero in the reset view. -/
theorem State.reset_view_get (k : Field) : State.reset.view.get k = 0 := by
  cases k <;> rfl

/-- The reset image is the one CLRB leaves (R24, R122). -/
theorem State.reset_img_eq_zero : State.reset.img = Memory.zero := rfl

theorem State.read_reset_img (i : Nat) : Memory.read State.reset.img i = 0 := by
  rw [State.reset_img_eq_zero, Memory.read_zero]

/-- Settles O39: the settings and the view selector by selector, the image as CLRB's, and the single registers by the
reset state's own field lemmas. -/
theorem resetIsAllZero : Obligations.ResetIsAllZero :=
  ⟨State.reset_settings_get, State.read_reset_img, State.reset_len, State.reset_view_get, State.reset_err,
    State.reset_vok, State.reset_csumOut, State.reset_rdata⟩

end Sys2Proof.Machine
end

section
/-! The decoder of 30_encoding.md R60 against the encoder. Decoding accepts a word in three steps: its opcode is assigned,
the must-be-zero fields of the opcode's format are zero, and its operands are in range. Each step is undone by the encoder,
which gives one statement of when a word decodes to a command (`decode_eq_instr`); both round trips are its halves. -/

namespace Sys2Proof

/-- A word decodes to a command exactly when it passes every step of R60. -/
theorem decode_eq_instr_iff_steps {w : Word} {i : Instr} : decode w = .instr i ↔
    ∃ o, opField w = o.code ∧ o.format.zerosOk (aField w) (immField w) = true ∧
      decodeOperands o (aField w) (immField w) = some i := by
  simp only [← Opcode.ofBits_eq_some]
  unfold decode decodeFields
  cases Opcode.ofBits (opField w) with
  | none => simp
  | some o =>
    cases hz : o.format.zerosOk (aField w) (immField w)
    · simp [hz]
    · cases ho : decodeOperands o (aField w) (immField w) <;> simp [hz, ho]

/-- What the decoder reads off the operand fields, the encoder puts back, and the range checks of R58 are met. -/
theorem operands_of_decodeOperands {o : Opcode} {a : BitVec 12} {imm : Half} {i : Instr}
    (hz : o.format.zerosOk a imm = true) (h : decodeOperands o a imm = some i) :
    i.wellFormed = true ∧ i.opcode = o ∧ i.aOperand = a ∧ i.immOperand = imm := by
  cases o <;> simp only [Opcode.format, Format.zerosOk, Bool.and_eq_true, beq_iff_eq] at hz
  case setf =>
    obtain ⟨k, hk, rfl⟩ := Option.map_eq_some_iff.mp h
    exact ⟨rfl, rfl, (Setting.ofSel_eq_some.mp hk).symm, rfl⟩
  case pushb =>
    cases h
    exact ⟨rfl, rfl, hz.1.symm, setWidth_imm8Of hz.2⟩
  case wrb =>
    obtain ⟨idx, hidx, rfl⟩ := Option.map_eq_some_iff.mp h
    obtain ⟨rfl, hlt⟩ := idxOf_eq_some.mp hidx
    exact ⟨decide_eq_true hlt, rfl, rfl, setWidth_imm8Of hz⟩
  case rdb =>
    obtain ⟨idx, hidx, rfl⟩ := Option.map_eq_some_iff.mp h
    obtain ⟨rfl, hlt⟩ := idxOf_eq_some.mp hidx
    exact ⟨decide_eq_true hlt, rfl, rfl, hz.symm⟩
  case rdv =>
    obtain ⟨k, hk, rfl⟩ := Option.map_eq_some_iff.mp h
    exact ⟨rfl, rfl, (Field.ofSel_eq_some.mp hk).symm, hz.symm⟩
  all_goals
    cases h
    exact ⟨rfl, rfl, hz.1.symm, hz.2.symm⟩

/-- The operands of a well-formed command are read back as that command. -/
theorem decodeOperands_operands {i : Instr} (h : i.wellFormed = true) :
    decodeOperands i.opcode i.aOperand i.immOperand = some i := by
  cases i with
  | setf k imm16 => simp [Instr.opcode, Instr.aOperand, Instr.immOperand, decodeOperands]
  | rdv k => simp [Instr.opcode, Instr.aOperand, decodeOperands]
  | pushb imm8 => simp [Instr.opcode, Instr.immOperand, decodeOperands]
  | wrb idx imm8 =>
    have hidx : idxOf idx = some idx := idxOf_eq_some.mpr ⟨rfl, of_decide_eq_true h⟩
    simp [Instr.opcode, Instr.aOperand, Instr.immOperand, decodeOperands, hidx]
  | rdb idx =>
    have hidx : idxOf idx = some idx := idxOf_eq_some.mpr ⟨rfl, of_decide_eq_true h⟩
    simp [Instr.opcode, Instr.aOperand, decodeOperands, hidx]
  | _ => rfl

/-- The fields of every command's word, from the twelve commands' own lemmas. -/
theorem encode_fields (i : Instr) : Laws.EncodeFields.Statement i := by
  cases i with
  | nop => exact Laws.EncodeFields.nop
  | setf k imm16 => exact Laws.EncodeFields.setf k imm16
  | valid => exact Laws.EncodeFields.valid
  | enc => exact Laws.EncodeFields.enc
  | clrb => exact Laws.EncodeFields.clrb
  | pushb imm8 => exact Laws.EncodeFields.pushb imm8
  | wrb idx imm8 => exact Laws.EncodeFields.wrb idx imm8
  | rdb idx => exact Laws.EncodeFields.rdb idx
  | dec => exact Laws.EncodeFields.dec
  | rdv k => exact Laws.EncodeFields.rdv k
  | csum => exact Laws.EncodeFields.csum
  | verify => exact Laws.EncodeFields.verify

/-- The words that decode to a command are its own word alone, and only a well-formed command has one. -/
theorem decode_eq_instr {w : Word} {i : Instr} : decode w = .instr i ↔ i.wellFormed = true ∧ encode i = w := by
  rw [decode_eq_instr_iff_steps]
  constructor
  · rintro ⟨o, hop, hz, ho⟩
    obtain ⟨hwf, rfl, ha, himm⟩ := operands_of_decodeOperands hz ho
    exact ⟨hwf, by rw [encode, ← hop, ha, himm, packWord_fields]⟩
  · rintro ⟨hwf, rfl⟩
    obtain ⟨hop, ha, himm, hz⟩ := encode_fields i
    exact ⟨i.opcode, hop, hz, by rw [ha, himm, decodeOperands_operands hwf]⟩

/-- Settles O4: the half of `decode_eq_instr` from a command to its word. -/
theorem decodeOfEncodeIsTheCommand : Obligations.DecodeOfEncodeIsTheCommand :=
  fun _ hwf => decode_eq_instr.mpr ⟨hwf, rfl⟩

/-- Settles O5: the half of `decode_eq_instr` from a word to its command. -/
theorem legalWordsAreEncodings : Obligations.LegalWordsAreEncodings :=
  fun _ _ => decode_eq_instr.mp

end Sys2Proof
end

section
/-! The opcode table's rows in terms of the command formats: a row's fixed bits are its opcode's number and its format's
must-be-zero fields (30_encoding.md R57, R59). -/

namespace Sys2Proof

/-- The bits of operand A that a format requires to be zero (R57). -/
def Format.aMask : Format → BitVec 12
  | .z | .b => 0xFFF
  | .s | .x | .i => 0

/-- The bits of the immediate field that a format requires to be zero (R57). -/
def Format.immMask : Format → Half
  | .z | .i => 0xFFFF
  | .b | .x => 0xFF00
  | .s => 0

/-- The high byte of an immediate is what the mask 0xFF00 keeps. -/
theorem immHighOf_eq_zero {imm : Half} : immHighOf imm = 0 ↔ imm &&& 0xFF00 = 0 := by
  have hhigh : immHighOf (imm &&& 0xFF00) = immHighOf imm := by
    rw [immHighOf, BitVec.extractLsb'_and]
    exact BitVec.and_allOnes
  have hlow : imm8Of (imm &&& 0xFF00) = 0 := by
    rw [imm8Of, BitVec.extractLsb'_and]
    exact BitVec.and_zero
  constructor
  · intro h
    rw [← setWidth_imm8Of (hhigh.trans h), hlow]
    rfl
  · intro h
    rw [← hhigh, h]
    rfl

/-- The must-be-zero fields of a format are the bits under its two masks. -/
theorem Format.zerosOk_iff_masks (f : Format) (a : BitVec 12) (imm : Half) :
    f.zerosOk a imm = true ↔ a &&& f.aMask = 0 ∧ imm &&& f.immMask = 0 := by
  have ha : a &&& 0xFFF = a := BitVec.and_allOnes
  have himm : imm &&& 0xFFFF = imm := BitVec.and_allOnes
  have ha0 : a &&& 0 = 0 := BitVec.and_zero
  have himm0 : imm &&& 0 = 0 := BitVec.and_zero
  cases f <;>
    simp only [Format.zerosOk, Format.aMask, Format.immMask, Bool.and_eq_true, beq_iff_eq, ha, ha0, himm,
      himm0, immHighOf_eq_zero, true_and, and_self]

/-- Every row fixes the whole opcode, and zeros where its format requires them. -/
theorem row_mask_value {r : OpcodeRow} (h : r ∈ opcodeRows) :
    r.mask = packWord 0xF r.opcode.format.aMask r.opcode.format.immMask ∧ r.value = packWord r.opcode.code 0 0 := by
  revert r
  decide

/-- A word has a row's fixed bits exactly when it passes steps (2) and (4) of R60 as that row's opcode. -/
theorem matches_row_iff {r : OpcodeRow} (h : r ∈ opcodeRows) (w : Word) : w &&& r.mask = r.value ↔
    opField w = r.opcode.code ∧ r.opcode.format.zerosOk (aField w) (immField w) = true := by
  obtain ⟨hmask, hvalue⟩ := row_mask_value h
  have hop : opField w &&& 0xF = opField w := BitVec.and_allOnes
  conv_lhs => rw [← packWord_fields w, hmask, hvalue, packWord_and, packWord_inj, hop]
  rw [Format.zerosOk_iff_masks]

theorem Opcode.code_injective : Function.Injective Opcode.code := fun o o' h =>
  Option.some.inj (by rw [← Opcode.ofBits_code o, h, Opcode.ofBits_code o'])

/-- Settles O7: the opcode number in the word decides the row, and the row's other fixed bits are the must-be-zero fields
that decoding has checked. -/
theorem legalWordMatchesItsRowAlone : Obligations.LegalWordMatchesItsRowAlone := by
  intro w i hw r hr
  obtain ⟨o, hop, hz, ho⟩ := decode_eq_instr_iff_steps.mp hw
  obtain ⟨-, rfl, -, -⟩ := operands_of_decodeOperands hz ho
  rw [matches_row_iff hr]
  constructor
  · rintro ⟨hcode, -⟩
    exact Opcode.code_injective (hcode.symm.trans hop)
  · intro heq
    exact heq ▸ ⟨hop, hz⟩

end Sys2Proof
end

section
/-! The illegal words of 30_encoding.md R61, step by step of R60. -/

namespace Sys2Proof.Machine

/-- Step (2) of R60: the unassigned opcodes are 0xC..0xF. -/
theorem ofBits_opField_eq_none {w : Word} : Opcode.ofBits (opField w) = none ↔ 12 ≤ opNum w := by
  rw [opNum_eq]
  generalize opField w = op
  revert op
  decide

theorem aField_eq_zero {w : Word} : aField w = 0 ↔ aNum w = 0 := by
  rw [aNum_eq, ← BitVec.toNat_inj]; rfl

theorem immField_eq_zero {w : Word} : immField w = 0 ↔ immNum w = 0 := by
  rw [immNum_eq, ← BitVec.toNat_inj]; rfl

theorem immHighOf_immField_eq_zero {w : Word} : immHighOf (immField w) = 0 ↔ immNum w / 2 ^ 8 = 0 := by
  have h := (immField w).isLt
  rw [immNum_eq, ← BitVec.toNat_inj]
  simp [immHighOf, BitVec.extractLsb'_toNat, Nat.shiftRight_eq_div_pow]
  omega

/-- Step (4) of R60 on a Z-format word: bits 27..0 are the two fields together. -/
theorem zerosOk_z {w : Word} : Format.z.zerosOk (aField w) (immField w) = true ↔ w.toNat % 2 ^ 28 = 0 := by
  simp only [Format.zerosOk, Bool.and_eq_true, beq_iff_eq, aField_eq_zero, immField_eq_zero]
  unfold aNum immNum
  omega

/-- Step (4) of R60 on a B-format word: bits 27..8 are operand A and the immediate's high byte together. -/
theorem zerosOk_b {w : Word} : Format.b.zerosOk (aField w) (immField w) = true ↔ w.toNat / 2 ^ 8 % 2 ^ 20 = 0 := by
  simp only [Format.zerosOk, Bool.and_eq_true, beq_iff_eq, aField_eq_zero, immHighOf_immField_eq_zero]
  unfold aNum immNum
  omega

/-- Step (4) of R60 on an X-format word: bits 15..8 are the immediate's high byte. -/
theorem zerosOk_x {w : Word} : Format.x.zerosOk (aField w) (immField w) = true ↔ immNum w / 2 ^ 8 = 0 := by
  simp only [Format.zerosOk, beq_iff_eq, immHighOf_immField_eq_zero]

/-- An S-format word has no must-be-zero field. -/
theorem zerosOk_s {w : Word} : Format.s.zerosOk (aField w) (immField w) = true := rfl

/-- Step (4) of R60 on an I-format word: bits 15..0 are the immediate. -/
theorem zerosOk_i {w : Word} : Format.i.zerosOk (aField w) (immField w) = true ↔ immNum w = 0 := by
  simp only [Format.zerosOk, beq_iff_eq, immField_eq_zero]

/-- Step (5) of R60 for SETF. -/
theorem settingOfSel_aField_eq_none {w : Word} : Setting.ofSel (aField w) = none ↔ 5 ≤ aNum w := by
  rw [aNum_eq, ← not_lt, ← Setting.ofSel_isSome, Option.not_isSome_iff_eq_none]

/-- Step (5) of R60 for RDV. -/
theorem fieldOfSel_aField_eq_none {w : Word} : Field.ofSel (aField w) = none ↔ 11 ≤ aNum w := by
  rw [aNum_eq, ← not_lt, ← Field.ofSel_isSome, Option.not_isSome_iff_eq_none]

/-- Step (5) of R60 for WRB and RDB. -/
theorem idxOf_aField_eq_none {w : Word} : idxOf (aField w) = none ↔ 186 ≤ aNum w := by
  simp [idxOf, aNum_eq]

/-- Steps (4) and (5) of R60: under each assigned opcode, what R61 lists. -/
theorem rejected_iff_listedIllegal {w : Word} {o : Opcode} (h : Opcode.ofBits (opField w) = some o) :
    (o.format.zerosOk (aField w) (immField w) = false ∨ decodeOperands o (aField w) (immField w) = none) ↔
      ListedIllegal w := by
  have hop : opNum w = o.code.toNat := by rw [opNum_eq, Opcode.ofBits_eq_some.mp h]
  cases o <;>
    simp [ListedIllegal, hop, Opcode.code, Opcode.format, decodeOperands, ← Bool.not_eq_true, zerosOk_z, zerosOk_b,
      zerosOk_s, zerosOk_x, zerosOk_i, settingOfSel_aField_eq_none, fieldOfSel_aField_eq_none, idxOf_aField_eq_none]

/-- The decoder rejects exactly the words of R61's list. -/
theorem decode_illegal_iff_listedIllegal (w : Word) : (∃ why, decode w = .illegal why) ↔ ListedIllegal w := by
  rw [decode_illegal_iff]
  cases ho : Opcode.ofBits (opField w) with
  | none => simp [ListedIllegal, ofBits_opField_eq_none.mp ho]
  | some o => simpa using rejected_iff_listedIllegal ho

/-- A listed word raises BadCommand (R61) and changes nothing else (R145). -/
theorem execWord_of_listedIllegal {w : Word} (h : ListedIllegal w) (s : State) :
    execWord w s = .next { s with err := 3 } := by
  obtain ⟨why, hwhy⟩ := (decode_illegal_iff_listedIllegal w).mpr h
  rw [execWord, hwhy]
  rfl

theorem encode_nop : encode .nop = 0 := by decide

/-- Settles O3: the decoder's steps give R61's list, and NOP's word is its encoding alone. -/
theorem illegalWordsAreThoseListed : Obligations.IllegalWordsAreThoseListed := by
  refine ⟨decode_illegal_iff_listedIllegal, fun _ s h => execWord_of_listedIllegal h s, fun w => ?_⟩
  rw [decode_eq_instr, encode_nop, eq_comm (a := w)]
  exact and_iff_right rfl

end Sys2Proof.Machine
end

section
/-! The FieldLayout table of 30_encoding.md R50: what each entry covers, and that no index is covered twice. -/

namespace Sys2Proof.Machine

theorem mem_allFields (k : Field) : k ∈ allFields := by cases k <;> decide

theorem fieldCovers_iff {k : Field} {i : Nat} : fieldCovers k i = true ↔
    (fieldLayout k).startOffset ≤ i ∧ i < (fieldLayout k).startOffset + (fieldLayout k).width := by
  simp [fieldCovers]

/-- Of two different entries, one ends before the other starts. -/
theorem entries_disjoint : ∀ j ∈ allFields, ∀ k ∈ allFields, j ≠ k →
    (fieldLayout j).startOffset + (fieldLayout j).width ≤ (fieldLayout k).startOffset ∨
    (fieldLayout k).startOffset + (fieldLayout k).width ≤ (fieldLayout j).startOffset := by decide

theorem eq_of_fieldCovers {j k : Field} {i : Nat} (hj : fieldCovers j i = true) (hk : fieldCovers k i = true) :
    j = k := by
  by_contra hne
  rw [fieldCovers_iff] at hj hk
  have := entries_disjoint j (mem_allFields j) k (mem_allFields k) hne
  omega

theorem byteOrder_eq_littleEndian_iff (k : Field) :
    (fieldLayout k).byteOrder = some .littleEndian ↔ k = .xMax ∨ k = .yMax := by
  cases k <;> decide

/-- The reserved bytes (20_memory.md R38) are the gaps between the eleven entries' intervals. -/
theorem reservedIndex_iff (i : Nat) : reservedIndex i = true ↔ i = 10 ∨ i = 11 ∨ (13 ≤ i ∧ i ≤ 183) := by
  have huncovered : reservedIndex i = true ↔ i < 186 ∧ ∀ k ∈ allFields, ¬ fieldCovers k i = true := by
    simp [reservedIndex]
  simp only [huncovered, fieldCovers_iff, allFields, List.forall_mem_cons, List.not_mem_nil, IsEmpty.forall_iff,
    implies_true, and_true, fieldLayout]
  omega

/-- Settles O28: the table's rows by evaluation, the other clauses by the lemmas above. -/
theorem fieldLayoutIsTheTable : Obligations.FieldLayoutIsTheTable :=
  ⟨by decide, byteOrder_eq_littleEndian_iff, fun _ _ _ => eq_of_fieldCovers, reservedIndex_iff⟩

end Sys2Proof.Machine
end

section
/-! The validator of 40_validate.md: the predicate on the resolutions, VALID's two answers, and that a passed validation
holds until the next SETF, the one command that writes a settings register. -/

namespace Sys2Proof.Machine

/-- The predicate of R80 without its Boolean tests. -/
theorem validRes_iff (v : Int) : validRes v = true ↔ 0 < v ∧ v ≤ 4095 ∧ v % 2 = 0 := by
  simp [validRes, and_assoc]

/-- The set the predicate defines (R80): 2, 4, ..., 4094. -/
theorem validRes_iff_even (v : Int) : validRes v = true ↔ ∃ n : Nat, 1 ≤ n ∧ n ≤ 2047 ∧ v = 2 * (n : Int) := by
  rw [validRes_iff]
  constructor
  · rintro ⟨hpos, hmax, heven⟩
    exact ⟨(v / 2).toNat, by omega, by omega, by omega⟩
  · rintro ⟨n, hlo, hhi, rfl⟩
    omega

theorem validSettings_iff (st : Settings) : validSettings st = true ↔ LegalResolutions st := by
  simp only [validSettings, Bool.and_eq_true, validRes_iff, LegalResolutions]

/-- The validator looks at x_max and y_max alone (R80). -/
theorem validSettings_congr {st st' : Settings} (hx : st.xMax = st'.xMax) (hy : st.yMax = st'.yMax) :
    validSettings st = validSettings st' := by
  rw [validSettings, validSettings, hx, hy]

/-- Settles O17: the predicate as arithmetic, and the even numbers by halving. -/
theorem validResolutionsAreTheEvenNumbersTo4094 : Obligations.ValidResolutionsAreTheEvenNumbersTo4094 :=
  ⟨validRes_iff, validRes_iff_even, validSettings_iff⟩

theorem encode_valid : encode .valid = 0x20000000 := by decide

/-- Settles O18: VALID's two outcomes, by the validator's verdict. -/
theorem validReportsInErrAlone : Obligations.ValidReportsInErrAlone := by
  refine ⟨encode_valid, fun s hlegal => ?_, fun s hillegal => ?_⟩
  · exact execValid_next.mpr (.inl ⟨(validSettings_iff _).mpr hlegal, rfl⟩)
  · have hrefused : validSettings s.settings = false :=
      Bool.eq_false_iff.mpr (mt (validSettings_iff _).mp hillegal)
    exact execValid_next.mpr (.inr ⟨hrefused, rfl⟩)

/-- ERR = 0 after VALID means that the validator accepted. -/
theorem validSettings_of_valid {s t : State} (h : exec .valid s = .next t) (herr : t.err = 0) :
    validSettings s.settings = true := by
  obtain ⟨hvalid, -⟩ | ⟨-, rfl⟩ := execValid_next.mp h
  · exact hvalid
  · simp [Error.code] at herr

/-- No command but SETF writes a settings register (10_state.md R25). -/
theorem exec_settings {i : Instr} {s t : State} (hi : i.opcode ≠ .setf) (h : exec i s = .next t) :
    t.settings = s.settings := by
  cases i with
  | setf k v => exact absurd rfl hi
  | nop => rw [execNop_next.mp h]
  | clrb => rw [execClrb_next.mp h]; rfl
  | rdv k => rw [execRdv_next.mp h]; rfl
  | csum => rw [execCsum_next.mp h]; rfl
  | valid => obtain ⟨-, rfl⟩ | ⟨-, rfl⟩ := execValid_next.mp h <;> rfl
  | enc => obtain ⟨-, rfl⟩ | ⟨-, rfl⟩ := execEnc_next.mp h <;> rfl
  | pushb b => obtain ⟨-, rfl⟩ | ⟨-, rfl⟩ := execPushb_next.mp h <;> rfl
  | wrb idx b => obtain ⟨-, rfl⟩ | ⟨-, rfl⟩ := execWrb_next.mp h <;> rfl
  | rdb idx => obtain ⟨-, rfl⟩ | ⟨-, rfl⟩ := execRdb_next.mp h <;> rfl
  | dec => obtain ⟨-, rfl⟩ | ⟨-, rfl⟩ := execDec_next.mp h <;> rfl
  | verify => obtain ⟨-, rfl⟩ | ⟨-, rfl⟩ := execVerify_next.mp h <;> rfl

theorem execAll_nil_eq_next {s u : State} : execAll [] s = .next u ↔ u = s := by
  simp [execAll, eq_comm]

/-- A sequence answers when its first command does and the others do from there. -/
theorem execAll_cons_eq_next {i : Instr} {rest : List Instr} {s u : State} :
    execAll (i :: rest) s = .next u ↔ ∃ t, exec i s = .next t ∧ execAll rest t = .next u := by
  cases h : exec i s <;> simp [execAll, h]

/-- A sequence without SETF keeps the settings. -/
theorem execAll_settings {cmds : List Instr} {s u : State} (hcmds : ∀ i ∈ cmds, i.opcode ≠ .setf)
    (h : execAll cmds s = .next u) : u.settings = s.settings := by
  induction cmds generalizing s with
  | nil => rw [execAll_nil_eq_next.mp h]
  | cons i rest ih =>
    obtain ⟨hi, hrest⟩ := List.forall_mem_cons.mp hcmds
    obtain ⟨t, hit, htu⟩ := execAll_cons_eq_next.mp h
    exact (ih hrest htu).trans (exec_settings hi hit)

/-- ENC completes whenever the validator accepts (R85). -/
theorem exec_enc_of_validSettings {s : State} (h : validSettings s.settings = true) :
    ∃ v, exec .enc s = .next v ∧ v.err = 0 :=
  ⟨_, execEnc_next.mpr (.inl ⟨h, rfl⟩), rfl⟩

/-- VALID does not depend on the other three settings (R80), and carries them over. -/
theorem exec_valid_replace_others {s t : State} (th n f : Half) (h : exec .valid s = .next t) :
    exec .valid { s with settings := ⟨s.settings.xMax, s.settings.yMax, th, n, f⟩ }
      = .next { t with settings := ⟨s.settings.xMax, s.settings.yMax, th, n, f⟩ } := by
  have hsame : validSettings ⟨s.settings.xMax, s.settings.yMax, th, n, f⟩ = validSettings s.settings :=
    validSettings_congr rfl rfl
  obtain ⟨hv, rfl⟩ | ⟨hv, rfl⟩ := execValid_next.mp h
  · exact execValid_next.mpr (.inl ⟨hsame.trans hv, rfl⟩)
  · exact execValid_next.mpr (.inr ⟨hsame.trans hv, rfl⟩)

/-- Settles O19: the settings VALID accepted are still there when ENC tests them. -/
theorem passedValidationLetsEncComplete : Obligations.PassedValidationLetsEncComplete := by
  refine ⟨fun s t u between hst herr hbetween htu => ?_, fun s t th n f hst => exec_valid_replace_others th n f hst⟩
  have hsettings : u.settings = s.settings :=
    (execAll_settings hbetween htu).trans (exec_settings (by decide) hst)
  exact exec_enc_of_validSettings (hsettings ▸ validSettings_of_valid hst herr)

end Sys2Proof.Machine
end

section
/-! The encoder of 41_encode.md, byte by byte. A multi-byte write changes the indices of its own bytes alone; the entries
of the FieldLayout table do not overlap, so each byte of an encoded image is a byte of the one field that covers it, and
a byte that no field covers is zero. -/

namespace Sys2Proof.Machine

/-- `MemWrite` (20_memory.md R33): byte d of the value at index i + d, every other index as before. -/
theorem Memory.read_writeLE (m : Memory) (i n : Nat) (v : Int) (j : Nat) :
    Memory.read (Memory.writeLE m i n v) j =
      if i ≤ j ∧ j < i + n then BitVec.ofInt 8 (v / 256 ^ (j - i)) else Memory.read m j := by
  induction n generalizing m i v with
  | zero => simp [Memory.writeLE, show ¬ (i ≤ j ∧ j < i) by omega]
  | succ n ih =>
    rw [Memory.writeLE, ih]
    by_cases hfirst : j = i
    · subst hfirst
      simp
    · by_cases hrest : i + 1 ≤ j ∧ j < i + 1 + n
      · have hpow : j - i = (j - (i + 1)) + 1 := by omega
        rw [if_pos hrest, if_pos (by omega), hpow, pow_succ', Int.ediv_ediv_of_nonneg (by decide)]
      · rw [if_neg hrest, if_neg (by omega), Memory.read_write_of_ne m _ hfirst]

/-- Writing a field changes the bytes it covers alone. -/
theorem read_putField (m : Memory) (k : Field) (v : Int) (i : Nat) : Memory.read (putField m k v) i =
    if fieldCovers k i = true then BitVec.ofInt 8 (v / 256 ^ (i - (fieldLayout k).startOffset))
    else Memory.read m i := by
  simp only [putField, Memory.read_writeLE, fieldCovers_iff]

/-- The number ENC stores in each field (R85, steps 3 to 12). -/
def encodedField (order : Config.ThrOrder) (st : Settings) : Field → Int
  | .protocolVersion => Config.protoVer
  | .xMax => sval st.xMax
  | .yMax => sval st.yMax
  | .numTouchPoints => storedTouchPoints (sval st.numTouchPoints)
  | .moduleSwitch1 => Config.msw1
  | .moduleSwitch2 => Config.msw2
  | .shakeCount => Config.shake
  | .filterCoefficient => storedFilter (sval st.filterCoefficient)
  | .touchThreshold => storedThreshold order (sval st.touchThreshold)
  | .checksum => (imageCsum (imageBody order st)).toNat
  | .configFresh => Config.fresh

/-- A byte of an encoded image is a byte of the number stored in the field that covers it. -/
theorem read_encodeImage_of_fieldCovers (order : Config.ThrOrder) (st : Settings) {k : Field} {i : Nat}
    (hk : fieldCovers k i = true) : Memory.read (encodeImage order st) i =
      BitVec.ofInt 8 (encodedField order st k / 256 ^ (i - (fieldLayout k).startOffset)) := by
  have hcovers : ∀ j, fieldCovers j i = true ↔ j = k := fun j =>
    ⟨fun hj => eq_of_fieldCovers hj hk, fun hj => hj ▸ hk⟩
  cases k <;> simp only [encodeImage, imageBody, read_putField, hcovers, reduceCtorEq, if_true, if_false, encodedField]

/-- A byte that no field covers stays as the all-zero buffer has it (R91). -/
theorem read_encodeImage_of_reserved (order : Config.ThrOrder) (st : Settings) {i : Nat}
    (hi : reservedIndex i = true) : Memory.read (encodeImage order st) i = 0 := by
  have hcovers : ∀ j, fieldCovers j i = false := by
    obtain ⟨-, h⟩ := Bool.and_eq_true_iff.mp hi
    simpa [mem_allFields] using h
  simp [encodeImage, imageBody, read_putField, hcovers]

/-- At the first index of a field stands the low byte of its number. -/
theorem read_encodeImage_startOffset (order : Config.ThrOrder) (st : Settings) (k : Field) :
    Memory.read (encodeImage order st) (fieldLayout k).startOffset = BitVec.ofInt 8 (encodedField order st k) := by
  have hk : fieldCovers k (fieldLayout k).startOffset = true := by cases k <;> decide
  simpa using read_encodeImage_of_fieldCovers order st hk

/-- The low 8 bits of a number are its remainder modulo 256, of a negative one too. -/
theorem toNat_ofInt_byte (v : Int) : ((BitVec.ofInt 8 v).toNat : Int) = v % 256 := by
  rw [BitVec.toNat_ofInt]
  exact Int.toNat_of_nonneg (Int.emod_nonneg v (by decide))

/-- The two bytes stored for a legal resolution (R86, R87): no truncation, an even low byte, a high byte below 16. -/
theorem bytes_of_legal_resolution {v : Int} (hv : 0 < v ∧ v ≤ 4095 ∧ v % 2 = 0) {lo hi : Byte}
    (hlo : lo = BitVec.ofInt 8 v) (hhi : hi = BitVec.ofInt 8 (v / 256)) :
    (lo.toNat : Int) = v % 256 ∧ (hi.toNat : Int) = v / 256 ∧ lo.toNat % 2 = 0 ∧ hi.toNat ≤ 0x0F := by
  have hlow : (lo.toNat : Int) = v % 256 := hlo ▸ toNat_ofInt_byte v
  have hhigh : (hi.toNat : Int) = v / 256 % 256 := hhi ▸ toNat_ofInt_byte (v / 256)
  omega

/-- The byte stored for num_touch_points (R88): the clamp fits a byte. -/
theorem byte_of_storedTouchPoints {n : Int} {b : Byte} (hb : b = BitVec.ofInt 8 (storedTouchPoints n)) :
    (b.toNat : Int) = min (max n 1) 10 ∧ 1 ≤ b.toNat ∧ b.toNat ≤ 10 := by
  have hbyte : (b.toNat : Int) = min (max n 1) 10 % 256 := hb ▸ toNat_ofInt_byte (storedTouchPoints n)
  omega

/-- ENC on legal resolutions (R85): the whole state it answers. -/
theorem exec_enc_of_legal {s : State} (h : LegalResolutions s.settings) : exec .enc s =
    .next (((s.setImg (encodeImage Config.thrOrder s.settings)).setLen wholeLen).setErr okCode) :=
  execEnc_next.mpr (.inl ⟨(validSettings_iff _).mpr h, rfl⟩)

/-- Settles O21: each byte is read off the field that covers it, and the two field rules give the bounds. -/
theorem encStoresEachFieldByItsRule : Obligations.EncStoresEachFieldByItsRule := by
  intro s hlegal
  have hstart := read_encodeImage_startOffset Config.thrOrder s.settings
  have hbyte2 := read_encodeImage_of_fieldCovers Config.thrOrder s.settings (k := .xMax) (i := 2) (by decide)
  have hbyte4 := read_encodeImage_of_fieldCovers Config.thrOrder s.settings (k := .yMax) (i := 4) (by decide)
  obtain ⟨hx1, hx2, hxEven, hxHigh⟩ := bytes_of_legal_resolution hlegal.1 (hstart .xMax) hbyte2
  obtain ⟨hy3, hy4, hyEven, hyHigh⟩ := bytes_of_legal_resolution hlegal.2 (hstart .yMax) hbyte4
  obtain ⟨hn, hnLow, hnHigh⟩ := byte_of_storedTouchPoints (hstart .numTouchPoints)
  exact ⟨_, exec_enc_of_legal hlegal, hx1, hx2, hxEven, hxHigh, hy3, hy4, hyEven, hyHigh, hn, hnLow, hnHigh, rfl,
    hstart .protocolVersion, hstart .moduleSwitch1, hstart .moduleSwitch2, hstart .shakeCount,
    fun i hi => read_encodeImage_of_reserved _ _ ((reservedIndex_iff i).mpr hi)⟩

end Sys2Proof.Machine
end

section
/-! The decoder of 42_decode.md. A field of one byte is read as that byte, a field of two as both bytes side by side, the
higher index above; so the view DEC drives, field by field, is the table of 30_encoding.md R53. -/

namespace Sys2Proof.Machine

/-- Two bytes side by side, as a little-endian number (20_memory.md R32). -/
theorem toNat_append_bytes (hi lo : Byte) : (hi ++ lo).toNat = lo.toNat + 256 * hi.toNat := by
  rw [BitVec.toNat_append, ← Nat.shiftLeft_add_eq_or_of_lt lo.isLt, Nat.shiftLeft_eq]
  omega

theorem ofNat_getField_of_width_one (m : Memory) {k : Field} (hk : (fieldLayout k).width = 1) :
    BitVec.ofNat 8 (getField m k) = Memory.read m (fieldLayout k).startOffset := by
  rw [getField, hk, Memory.readLE_one, BitVec.ofNat_toNat, BitVec.setWidth_eq]

theorem ofNat_getField_of_width_two (m : Memory) {k : Field} (hk : (fieldLayout k).width = 2) :
    BitVec.ofNat 16 (getField m k) =
      Memory.read m ((fieldLayout k).startOffset + 1) ++ Memory.read m (fieldLayout k).startOffset := by
  rw [getField, hk, Memory.readLE_two, ← toNat_append_bytes, BitVec.ofNat_toNat, BitVec.setWidth_eq]

/-- The step-by-step decoder (R100) is the field mux (R53): eleven registers, two of them 16 bits wide. -/
theorem viewOf_eq_muxView (m : Memory) : viewOf m = muxView (Memory.read m) := by
  have hx := ofNat_getField_of_width_two m (k := .xMax) rfl
  have hy := ofNat_getField_of_width_two m (k := .yMax) rfl
  have hbyte := fun k => ofNat_getField_of_width_one m (k := k)
  rw [viewOf, hx, hy, hbyte .protocolVersion rfl, hbyte .numTouchPoints rfl, hbyte .moduleSwitch1 rfl,
    hbyte .moduleSwitch2 rfl, hbyte .shakeCount rfl, hbyte .filterCoefficient rfl, hbyte .touchThreshold rfl,
    hbyte .checksum rfl, hbyte .configFresh rfl]
  rfl

theorem encode_dec : encode .dec = 0x80000000 := by decide

/-- DEC on a whole blob (R100): the whole state it answers. -/
theorem exec_dec_of_whole {s : State} (h : s.len.toNat = 186) :
    exec .dec s = .next ((s.setView (muxView (Memory.read s.img))).setErr okCode) :=
  execDec_next.mpr (.inl ⟨h, by rw [viewOf_eq_muxView]⟩)

/-- Settles O26: DEC's two outcomes, by LEN; the two 16-bit registers as arithmetic. -/
theorem decDrivesTheViewFromTheFieldMux : Obligations.DecDrivesTheViewFromTheFieldMux := by
  refine ⟨encode_dec, fun s hwhole => ?_, fun s hlen => execDec_next.mpr (.inr ⟨hlen, rfl⟩)⟩
  exact ⟨_, exec_dec_of_whole hwhole, rfl, toNat_append_bytes _ _, toNat_append_bytes _ _, rfl, rfl, fun _ => rfl, rfl,
    rfl, rfl, rfl, rfl⟩

end Sys2Proof.Machine
end

section
/-! The checksum function of 43_checksum.md R110. Accumulating in 8 bits is the sum in the ring of bytes, so the checksum is
the negation of that sum (`csum_eq_neg_sum`), and R111's laws about order and about one changed byte are the ring's. -/

namespace Sys2Proof.Machine

/-- The exact sum, cut to 8 bits, is the sum in the ring of bytes (R111 (f)). -/
theorem ofNat_byteSum (b : List Byte) : BitVec.ofNat 8 (byteSum b) = b.sum := by
  induction b with
  | nil => rfl
  | cons x xs ih => rw [byteSum_cons, BitVec.ofNat_add, ih, BitVec.ofNat_toNat, BitVec.setWidth_eq, List.sum_cons]

theorem csum_eq_neg_sum (b : List Byte) : csum b = -b.sum := by
  rw [csum_eq_neg, ofNat_byteSum]

theorem toNat_csum (b : List Byte) : (csum b).toNat = (256 - byteSum b % 256) % 256 := by
  rw [csum_eq_neg, BitVec.toNat_neg, BitVec.toNat_ofNat]

theorem csum_eq_zero_of_byteSum {b : List Byte} (h : byteSum b % 256 = 0) : csum b = 0 := by
  apply BitVec.eq_of_toNat_eq
  rw [toNat_csum, h]
  rfl

theorem byteSum_le (b : List Byte) : byteSum b ≤ b.length * 255 := by
  have hbyte : ∀ n ∈ b.map BitVec.toNat, n ≤ 255 :=
    List.forall_mem_map.mpr fun x _ => Nat.le_of_lt_succ x.isLt
  simpa [byteSum] using List.sum_le_card_nsmul _ 255 hbyte

/-- The order of the bytes does not enter the checksum (R111 (g)). -/
theorem csum_perm {b c : List Byte} (h : b.Perm c) : csum b = csum c := by
  rw [csum_eq_neg_sum, csum_eq_neg_sum, h.sum_eq]

/-- Adding d to one byte subtracts d from the checksum (R111 (h)). -/
theorem csum_set_add {b : List Byte} {i : Nat} (d : Byte) (hi : i < b.length) :
    csum (b.set i (b.getD i 0 + d)) = csum b - d := by
  rw [csum_eq_neg_sum, csum_eq_neg_sum, List.sum_set', dif_pos hi, List.getD_eq_getElem _ _ hi,
    neg_add_cancel_left, neg_add, sub_eq_add_neg]

/-- Settles O29: the number the checksum is gives the arithmetic clauses, the ring of bytes the other three. -/
theorem checksumIsTheNegatedSum : Obligations.ChecksumIsTheNegatedSum := by
  refine ⟨fun b hlen => ?_, fun _ _ _ => csum_perm, fun b i d hlen hi => csum_set_add d (hlen ▸ hi)⟩
  have hnum := toNat_csum b
  have hbound : byteSum b ≤ 184 * 255 := hlen ▸ byteSum_le b
  refine ⟨?_, hnum, csum_eq_zero_of_byteSum, ?_, ?_, hbound, ?_⟩
  · omega
  · omega
  · omega
  · rw [csum_eq_neg_sum, List.sum_eq_foldl]

end Sys2Proof.Machine
end

section
/-! The commands CSUM and VERIFY (43_checksum.md R112, R113). The stored byte is the checksum of the bytes before it exactly
when they all sum to 0 modulo 256. -/

namespace Sys2Proof.Machine

/-- A byte put behind the others is their checksum exactly when all of them sum to 0 modulo 256 (R113). -/
theorem csum_eq_iff_byteSum_append (b : List Byte) (c : Byte) :
    csum b = c ↔ byteSum (b ++ [c]) % 256 = 0 := by
  have hc := c.isLt
  rw [← BitVec.toNat_inj, toNat_csum, byteSum_append, byteSum_cons, byteSum_nil]
  omega

theorem checksumMatches_iff (m : Memory) :
    checksumMatches m = true ↔ csum (Memory.bytes m 184) = Memory.read m 184 := by
  rw [checksumMatches, beq_iff_eq, storedCsum_eq, imageCsum]

theorem checksumMatches_iff_byteSum (m : Memory) :
    checksumMatches m = true ↔ byteSum (Memory.bytes m 185) % 256 = 0 := by
  rw [checksumMatches_iff, csum_eq_iff_byteSum_append, ← Memory.bytes_succ]

theorem encode_csum : encode .csum = 0xA0000000 := by decide

theorem encode_verify : encode .verify = 0xB0000000 := by decide

/-- Settles O31: VERIFY's two outcomes, by LEN; the verdict in both its readings. -/
theorem verifyReportsInVok : Obligations.VerifyReportsInVok :=
  ⟨encode_verify,
    fun s hwhole => ⟨checksumMatches s.img, execVerify_next.mpr (.inl ⟨hwhole, rfl⟩), checksumMatches_iff s.img,
      checksumMatches_iff_byteSum s.img⟩,
    fun _ hlen => execVerify_next.mpr (.inr ⟨hlen, rfl⟩)⟩

/-- Settles O30: CSUM's one outcome, and CSUM_OUT as a function of bytes 0..183. -/
theorem csumReportsInCsumOut : Obligations.CsumReportsInCsumOut := by
  refine ⟨encode_csum, fun s => execCsum_next.mpr rfl, fun s t u m hagree ht hu => ?_⟩
  have hbytes : Memory.bytes s.img 184 = Memory.bytes m 184 := Memory.bytes_congr fun i hi => (hagree i hi).symm
  rw [execCsum_next.mp ht, execCsum_next.mp hu]
  exact congrArg csum hbytes

end Sys2Proof.Machine
end

section
/-! The data movement commands of 44_data_movement.md. The settings registers are five separate cells, a command's word is
the number its three fields make, and an image of zeros has checksum 0; the effect and the frame of each command are then
read off the one state it answers. -/

namespace Sys2Proof

/-- The number a command's word is (30_encoding.md R56 to R59). -/
theorem toNat_encode (i : Instr) : (encode i).toNat =
    i.opcode.code.toNat * 2 ^ 28 + i.aOperand.toNat * 2 ^ 16 + i.immOperand.toNat :=
  toNat_packWord _ _ _

theorem toNat_encode_setf (k : Setting) (v : Half) :
    (encode (.setf k v)).toNat = 0x10000000 + k.sel.toNat * 2 ^ 16 + v.toNat := by
  simp [toNat_encode, Instr.opcode, Opcode.code, Instr.aOperand, Instr.immOperand]

theorem toNat_encode_pushb (b : Byte) : (encode (.pushb b)).toNat = 0x50000000 + b.toNat := by
  have himm : (b.setWidth 16).toNat = b.toNat := BitVec.toNat_setWidth_of_le (by decide)
  simp [toNat_encode, Instr.opcode, Opcode.code, Instr.aOperand, Instr.immOperand, himm]

theorem toNat_encode_rdv (k : Field) : (encode (.rdv k)).toNat = 0x90000000 + k.sel.toNat * 2 ^ 16 := by
  simp [toNat_encode, Instr.opcode, Opcode.code, Instr.aOperand, Instr.immOperand]

theorem encode_clrb : encode .clrb = 0x40000000 := by decide

end Sys2Proof

namespace Sys2Proof.Machine

/-- Settles O8: NOP's one outcome is the state itself. -/
theorem nopChangesNothing : Obligations.NopChangesNothing :=
  ⟨encode_nop, fun _ => execNop_next.mpr rfl⟩

/-! ## SETF and RDV -/

/-- Writing one settings register leaves the other four (10_state.md R11). -/
theorem Settings.get_set (st : Settings) (k j : Setting) (v : Half) :
    (st.set k v).get j = if j = k then v else st.get j := by
  cases k <;> cases j <;> rfl

@[simp] theorem Settings.get_set_self (st : Settings) (k : Setting) (v : Half) : (st.set k v).get k = v := by
  rw [Settings.get_set, if_pos rfl]

theorem Settings.get_set_of_ne (st : Settings) {k j : Setting} (v : Half) (h : j ≠ k) :
    (st.set k v).get j = st.get j := by
  rw [Settings.get_set, if_neg h]

/-- SETF with no such settings register is on R61's list. -/
theorem listedIllegal_of_setf_selector {w : Word} (hop : opNum w = 1) (hsel : 5 ≤ aNum w) : ListedIllegal w := by
  simp [ListedIllegal, hop, hsel]

/-- RDV with no such view register is on R61's list. -/
theorem listedIllegal_of_rdv_selector {w : Word} (hop : opNum w = 9) (hsel : 11 ≤ aNum w) : ListedIllegal w := by
  simp [ListedIllegal, hop, hsel]

/-- SETF (R121): the whole state it answers. -/
theorem exec_setf (k : Setting) (v : Half) (s : State) :
    exec (.setf k v) s = .next ((s.setSettings (s.settings.set k v)).setErr okCode) :=
  execSetf_next.mpr rfl

/-- RDV (R127): the whole state it answers. -/
theorem exec_rdv (k : Field) (s : State) : exec (.rdv k) s = .next { s with rdata := s.view.get k, err := 0 } :=
  execRdv_next.mpr rfl

/-- Settles O9: the settings registers are separate cells, and SETF writes nothing else but ERR. -/
theorem setfWritesOneRegister : Obligations.SetfWritesOneRegister := by
  refine ⟨fun k v s => ?_, toNat_encode_setf,
    fun w s hop hsel => execWord_of_listedIllegal (listedIllegal_of_setf_selector hop hsel) s⟩
  have hwritten : (s.settings.set k v).get k = v := Settings.get_set_self _ k v
  exact ⟨_, exec_setf k v s, hwritten, congrArg sval hwritten, fun _ hj => Settings.get_set_of_ne _ v hj, rfl,
    fun _ => rfl, rfl, rfl, rfl, rfl, rfl, rfl⟩

/-- Settles O14: `exec_rdv` at each of the eleven selectors. -/
theorem rdvReadsOneViewRegister : Obligations.RdvReadsOneViewRegister :=
  ⟨toNat_encode_rdv,
    fun s => ⟨exec_rdv .protocolVersion s, exec_rdv .xMax s, exec_rdv .yMax s, exec_rdv .numTouchPoints s,
      exec_rdv .moduleSwitch1 s, exec_rdv .moduleSwitch2 s, exec_rdv .shakeCount s, exec_rdv .filterCoefficient s,
      exec_rdv .touchThreshold s, exec_rdv .checksum s, exec_rdv .configFresh s⟩,
    fun _ s hop hsel => execWord_of_listedIllegal (listedIllegal_of_rdv_selector hop hsel) s⟩

/-! ## CLRB and PUSHB -/

theorem Memory.bytes_zero (n : Nat) : Memory.bytes Memory.zero n = List.replicate n 0 := by
  simp [Memory.bytes, List.eq_replicate_iff]

/-- The checksum of 184 zeros (R122). -/
theorem imageCsum_zero : imageCsum Memory.zero = 0 := by
  rw [imageCsum, Memory.bytes_zero, csum_eq_neg_sum, List.sum_replicate, smul_zero, neg_zero]

/-- CLRB (R122): the whole state it answers. -/
theorem exec_clrb (s : State) : exec .clrb s = .next (((s.setImg Memory.zero).setLen 0).setErr okCode) :=
  execClrb_next.mpr rfl

/-- DEC on a blob of another length raises (R100). -/
theorem exec_dec_of_not_whole {s : State} (h : s.len.toNat ≠ 186) : exec .dec s = .next { s with err := 2 } :=
  execDec_next.mpr (.inr ⟨h, rfl⟩)

/-- VERIFY on a blob of another length clears VOK and raises (R113). -/
theorem exec_verify_of_not_whole {s : State} (h : s.len.toNat ≠ 186) :
    exec .verify s = .next { s with vok := false, err := 2 } :=
  execVerify_next.mpr (.inr ⟨h, rfl⟩)

/-- CSUM on an image of zeros. -/
theorem exec_csum_of_img_zero {s : State} (h : s.img = Memory.zero) :
    exec .csum s = .next { s with csumOut := 0, err := 0 } := by
  have hsum : imageCsum s.img = 0 := h ▸ imageCsum_zero
  exact execCsum_next.mpr (by rw [hsum]; rfl)

/-- RDB on an image of zeros. -/
theorem exec_rdb_of_img_zero {s : State} {idx : BitVec 12} (h : s.img = Memory.zero) (hidx : idx.toNat < 186) :
    exec (.rdb idx) s = .next { s with rdata := 0, err := 0 } := by
  have hread : Memory.read s.img idx.toNat = 0 := h ▸ Memory.read_zero _
  exact execRdb_next.mpr (.inl ⟨hidx, by rw [hread]; rfl⟩)

/-- Settles O10: the state CLRB answers has LEN 0, so DEC and VERIFY raise, and an image of zeros, which CSUM and RDB
read. -/
theorem clrbEmptiesTheImage : Obligations.ClrbEmptiesTheImage := by
  refine ⟨encode_clrb, fun s => ?_⟩
  have hlen : (((s.setImg Memory.zero).setLen 0).setErr okCode).len.toNat ≠ 186 := by simp
  exact ⟨_, exec_clrb s, Memory.read_zero, rfl, rfl, rfl, rfl, ⟨rfl, rfl, rfl, rfl⟩, exec_dec_of_not_whole hlen,
    exec_verify_of_not_whole hlen, exec_csum_of_img_zero rfl, fun _ hidx => exec_rdb_of_img_zero rfl hidx⟩

theorem appendIndex_of_lt {s : State} (h : s.len.toNat < 186) : appendIndex s = some s.len.toNat :=
  appendIndex_eq_some.mpr ⟨rfl, h⟩

theorem appendIndex_of_ge {s : State} (h : 186 ≤ s.len.toNat) : appendIndex s = none :=
  if_neg (not_lt.mpr h)

/-- PUSHB while there is an append index (R123): the whole state it answers. -/
theorem exec_pushb_of_lt (b : Byte) {s : State} (h : s.len.toNat < 186) : exec (.pushb b) s =
    .next (((s.setImg (Memory.write s.img s.len.toNat b)).setLen (countedLen s.len)).setErr okCode) :=
  execPushb_next.mpr (.inl ⟨h, rfl⟩)

/-- PUSHB from LEN = 186 on (R123): the byte is counted, not stored. -/
theorem exec_pushb_of_ge (b : Byte) {s : State} (h : 186 ≤ s.len.toNat) :
    exec (.pushb b) s = .next ((s.setLen (countedLen s.len)).setErr okCode) :=
  execPushb_next.mpr (.inr ⟨h, rfl⟩)

/-- The counter goes up below 255 and stays there (10_state.md R15). -/
theorem countedLen_toNat_eq_ite (len : BitVec 8) :
    (countedLen len).toNat = if len.toNat < 255 then len.toNat + 1 else 255 := by
  rw [countedLen_toNat]
  split <;> omega

/-- Settles O11: the two outcomes of PUSHB, by whether LEN is an append index. -/
theorem pushbAppendsOneByte : Obligations.PushbAppendsOneByte := by
  refine ⟨toNat_encode_pushb, fun b s => ?_⟩
  have hcount := countedLen_toNat_eq_ite s.len
  by_cases hlen : s.len.toNat < 186
  · have hindex := appendIndex_of_lt hlen
    refine ⟨_, exec_pushb_of_lt b hlen, fun i hi j => ?_, fun hnone => ?_, rfl, hcount, rfl, rfl, rfl,
      ⟨rfl, rfl, rfl, rfl⟩⟩
    · obtain rfl : s.len.toNat = i := Option.some.inj (hindex.symm.trans hi)
      exact Memory.read_write _ _ _ _
    · exact absurd (hindex.symm.trans hnone) (Option.some_ne_none _)
  · have hindex := appendIndex_of_ge (not_lt.mp hlen)
    refine ⟨_, exec_pushb_of_ge b (not_lt.mp hlen), fun i hi => ?_, fun _ _ => rfl, rfl, hcount, rfl, rfl, rfl,
      ⟨rfl, rfl, rfl, rfl⟩⟩
    exact absurd (hindex.symm.trans hi) (Option.some_ne_none i).symm

end Sys2Proof.Machine
end

section
/-! The errors of 60_exceptions.md. A command makes at most one test (R146): `raisedError` is the error that its failure
gives, and `raises_or_completes` ties it to the state the command leaves. A raise changes ERR, and for VERIFY VOK, and
nothing else (R145); each code has the one cause R141 and R142 give it. -/

namespace Sys2Proof.Machine

/-- The error a command raises in a state, by the command's own test (R141, R142); the index test of WRB and RDB never
fails on a command that decoding gives (log entry 7). -/
def raisedError (i : Instr) (s : State) : Option Error :=
  match i with
  | .valid | .enc => if validSettings s.settings then none else some .validationError
  | .dec | .verify => if s.len.toNat = Config.imgLen then none else some .bufferLengthError
  | .wrb idx _ | .rdb idx => if idx.toNat < Config.imgLen then none else some .badCommand
  | _ => none

/-- What a raise leaves: the state before the command with the code in ERR, and for VERIFY with VOK cleared (R145). -/
def raisedState (e : Error) (i : Instr) (s : State) : State :=
  { s with err := e.code, vok := if i = .verify then false else s.vok }

/-- Every command but NOP either ends without error or leaves what its raise leaves, as its own test decides. -/
theorem raises_or_completes {i : Instr} {s t : State} (hi : i ≠ .nop) (h : exec i s = .next t) :
    (raisedError i s = none ∧ t.err = okCode) ∨ ∃ e, raisedError i s = some e ∧ t = raisedState e i s := by
  cases i with
  | nop => exact absurd rfl hi
  | setf k v => rw [execSetf_next.mp h]; exact .inl ⟨rfl, rfl⟩
  | clrb => rw [execClrb_next.mp h]; exact .inl ⟨rfl, rfl⟩
  | rdv k => rw [execRdv_next.mp h]; exact .inl ⟨rfl, rfl⟩
  | csum => rw [execCsum_next.mp h]; exact .inl ⟨rfl, rfl⟩
  | pushb b => obtain ⟨-, rfl⟩ | ⟨-, rfl⟩ := execPushb_next.mp h <;> exact .inl ⟨rfl, rfl⟩
  | valid =>
    obtain ⟨hvalid, rfl⟩ | ⟨hvalid, rfl⟩ := execValid_next.mp h
    · exact .inl ⟨if_pos hvalid, rfl⟩
    · exact .inr ⟨_, if_neg (Bool.eq_false_iff.mp hvalid), rfl⟩
  | enc =>
    obtain ⟨hvalid, rfl⟩ | ⟨hvalid, rfl⟩ := execEnc_next.mp h
    · exact .inl ⟨if_pos hvalid, rfl⟩
    · exact .inr ⟨_, if_neg (Bool.eq_false_iff.mp hvalid), rfl⟩
  | dec =>
    obtain ⟨hwhole, rfl⟩ | ⟨hlen, rfl⟩ := execDec_next.mp h
    · exact .inl ⟨if_pos hwhole, rfl⟩
    · exact .inr ⟨_, if_neg hlen, rfl⟩
  | verify =>
    obtain ⟨hwhole, rfl⟩ | ⟨hlen, rfl⟩ := execVerify_next.mp h
    · exact .inl ⟨if_pos hwhole, rfl⟩
    · exact .inr ⟨_, if_neg hlen, rfl⟩
  | wrb idx b =>
    obtain ⟨hidx, rfl⟩ | ⟨hidx, rfl⟩ := execWrb_next.mp h
    · exact .inl ⟨if_pos hidx, rfl⟩
    · exact .inr ⟨_, if_neg (not_lt.mpr hidx), rfl⟩
  | rdb idx =>
    obtain ⟨hidx, rfl⟩ | ⟨hidx, rfl⟩ := execRdb_next.mp h
    · exact .inl ⟨if_pos hidx, rfl⟩
    · exact .inr ⟨_, if_neg (not_lt.mpr hidx), rfl⟩

/-- An illegal word raises BadCommand (R143) and changes nothing else (R145). -/
theorem execWord_of_decode_illegal {w : Word} {why : Illegal} (h : decode w = .illegal why) (s : State) :
    execWord w s = .next { s with err := 3 } :=
  execWord_of_listedIllegal ((decode_illegal_iff_listedIllegal w).mp ⟨why, h⟩) s

/-- Settles O34: of the two outcomes, only the raise leaves a nonzero ERR. -/
theorem raiseChangesErrAlone : Obligations.RaiseChangesErrAlone := by
  refine ⟨fun i s t h hi herr => ?_, fun _ _ s hw => execWord_of_decode_illegal hw s⟩
  obtain ⟨-, hok⟩ | ⟨e, -, rfl⟩ := raises_or_completes hi h
  · exact absurd hok herr
  · rfl

theorem Error.code_injective : Function.Injective Error.code := by
  intro e e'
  cases e <;> cases e' <;> decide

theorem Error.code_ne_okCode (e : Error) : e.code ≠ okCode := by
  cases e <;> decide

/-- ERR tells which error was raised: its codes differ from each other and from that of `Ok` (R140). -/
theorem err_eq_code_iff {i : Instr} {s t : State} (hi : i ≠ .nop) (h : exec i s = .next t) (e : Error) :
    t.err = e.code ↔ raisedError i s = some e := by
  obtain ⟨hnone, hok⟩ | ⟨e', hsome, rfl⟩ := raises_or_completes hi h
  · simp [hnone, hok, e.code_ne_okCode.symm]
  · simp [hsome, raisedState, Error.code_injective.eq_iff]

/-- The cause of ValidationError (R141). -/
theorem raisedError_eq_validationError_iff {i : Instr} {s : State} :
    raisedError i s = some .validationError ↔ (i = .valid ∨ i = .enc) ∧ ¬ LegalResolutions s.settings := by
  rw [← validSettings_iff]
  cases i <;> simp [raisedError]

/-- The cause of BufferLengthError (R142). -/
theorem raisedError_eq_bufferLengthError_iff {i : Instr} {s : State} :
    raisedError i s = some .bufferLengthError ↔ (i = .dec ∨ i = .verify) ∧ s.len.toNat ≠ 186 := by
  cases i <;> simp [raisedError]

/-- BadCommand is raised at decode alone (R143): a well-formed command's index passes its test. -/
theorem raisedError_ne_badCommand {i : Instr} (hwf : i.wellFormed = true) (s : State) :
    raisedError i s ≠ some .badCommand := by
  cases i with
  | wrb idx b =>
    have hidx : idx.toNat < Config.imgLen := of_decide_eq_true hwf
    simp [raisedError, hidx]
  | rdb idx =>
    have hidx : idx.toNat < Config.imgLen := of_decide_eq_true hwf
    simp [raisedError, hidx]
  | _ => simp [raisedError]

theorem execWord_of_decode_instr {w : Word} {i : Instr} (h : decode w = .instr i) (s : State) :
    execWord w s = exec i s := by
  rw [execWord, h]

/-- Settles O35: ERR names the error raised, and each error has its cause; decoding gives well-formed commands alone. -/
theorem everyErrorHasItsCause : Obligations.EveryErrorHasItsCause := by
  refine ⟨fun w i s t hw hi h => ?_, fun w why s t hw h => ?_⟩
  · rw [execWord_of_decode_instr hw] at h
    have herr := err_eq_code_iff hi h
    have hwf : i.wellFormed = true := (decode_eq_instr.mp hw).1
    exact ⟨(herr .validationError).trans raisedError_eq_validationError_iff,
      (herr .bufferLengthError).trans raisedError_eq_bufferLengthError_iff,
      (herr .badCommand).not.mpr (raisedError_ne_badCommand hwf s)⟩
  · rw [execWord_of_decode_illegal hw] at h
    cases h
    rfl

end Sys2Proof.Machine
end

section
/-! What a command does, said once: the state it answers, as a total function. A command whose own test fails
(`raisedError`) leaves what its raise leaves; any other leaves what its completion leaves. Claims about all commands follow
from the two forms, by cases on the command. -/

namespace Sys2Proof.Machine

/-- What a command leaves when its own test does not fail: NOP the state itself, every other command ERR = 0 and the
registers it writes (10_state.md R25). -/
def completedState (i : Instr) (s : State) : State :=
  match i with
  | .nop => s
  | .setf k v => { s with settings := s.settings.set k v, err := okCode }
  | .valid => { s with err := okCode }
  | .enc => { s with img := encodeImage Config.thrOrder s.settings, len := wholeLen, err := okCode }
  | .clrb => { s with img := Memory.zero, len := 0, err := okCode }
  | .pushb b =>
    { s with
      img := if s.len.toNat < Config.imgLen then Memory.write s.img s.len.toNat b else s.img
      len := countedLen s.len
      err := okCode }
  | .wrb idx b => { s with img := Memory.write s.img idx.toNat b, err := okCode }
  | .rdb idx => { s with rdata := zext16 (Memory.read s.img idx.toNat), err := okCode }
  | .dec => { s with view := viewOf s.img, err := okCode }
  | .rdv k => { s with rdata := s.view.get k, err := okCode }
  | .csum => { s with csumOut := imageCsum s.img, err := okCode }
  | .verify => { s with vok := checksumMatches s.img, err := okCode }

/-- The one state that a command answers. -/
def nextState (i : Instr) (s : State) : State :=
  match raisedError i s with
  | some e => raisedState e i s
  | none => completedState i s

theorem nextState_of_raises {i : Instr} {s : State} {e : Error} (h : raisedError i s = some e) :
    nextState i s = raisedState e i s := by
  simp only [nextState, h]

theorem nextState_of_completes {i : Instr} {s : State} (h : raisedError i s = none) :
    nextState i s = completedState i s := by
  simp only [nextState, h]

/-- Every command answers, in every state: its own test decides which of the two forms. -/
theorem exec_eq_nextState (i : Instr) (s : State) : exec i s = .next (nextState i s) := by
  cases i with
  | nop => rfl
  | setf k v => rfl
  | clrb => rfl
  | rdv k => rfl
  | csum => rfl
  | valid => simp only [exec, execValid, nextState, raisedError]; split <;> rfl
  | enc => simp only [exec, execEnc, nextState, raisedError]; split <;> rfl
  | dec => simp only [exec, execDec, nextState, raisedError, wholeBlob, decide_eq_true_eq]; split <;> rfl
  | verify => simp only [exec, execVerify, nextState, raisedError, wholeBlob, decide_eq_true_eq]; split <;> rfl
  | wrb idx b =>
    by_cases h : idx.toNat < 186 <;> simp [exec, execWrb, absoluteIndex, nextState, raisedError, h] <;> rfl
  | rdb idx =>
    by_cases h : idx.toNat < 186 <;> simp [exec, execRdb, absoluteIndex, nextState, raisedError, h] <;> rfl
  | pushb b =>
    by_cases h : s.len.toNat < 186 <;>
      simp [exec, execPushb, appendIndex, nextState, raisedError, completedState, h] <;> rfl

theorem exec_answers (i : Instr) (s : State) : ∃ t, exec i s = .next t := ⟨_, exec_eq_nextState i s⟩

/-- The two forms of a command's answer, as cases. -/
theorem exec_eq_next {i : Instr} {s t : State} : exec i s = .next t ↔
    (∃ e, raisedError i s = some e ∧ t = raisedState e i s) ∨ (raisedError i s = none ∧ t = completedState i s) := by
  rw [exec_eq_nextState, Host.Outcome.next.injEq, eq_comm]
  cases h : raisedError i s with
  | none => simp [nextState_of_completes h]
  | some e => simp [nextState_of_raises h]

/-- A command's test looks at the settings and at LEN alone (R141, R142). -/
theorem raisedError_congr {i : Instr} {s t : State} (hsettings : t.settings = s.settings) (hlen : t.len = s.len) :
    raisedError i t = raisedError i s := by
  cases i <;> simp only [raisedError, hsettings, hlen]

/-- NOP and CSUM make no test. -/
theorem opcode_of_raises {i : Instr} {s : State} {e : Error} (h : raisedError i s = some e) :
    i.opcode ≠ .nop ∧ i.opcode ≠ .csum := by
  cases i <;> simp_all [raisedError, Instr.opcode]

theorem opcode_eq_verify {i : Instr} : i.opcode = .verify ↔ i = .verify := by cases i <;> simp [Instr.opcode]

@[simp] theorem Error.code_ne_zero (e : Error) : e.code ≠ 0#2 := e.code_ne_okCode

/-! ## What a command writes -/

/-- Settles O36: a raise writes ERR and, of VERIFY, VOK; a completion writes what its record names. -/
theorem onlyTheNamedCommandsWrite : Obligations.OnlyTheNamedCommandsWrite := by
  intro i s t h
  obtain ⟨e, hraise, rfl⟩ | ⟨-, rfl⟩ := exec_eq_next.mp h
  · obtain ⟨hnop, -⟩ := opcode_of_raises hraise
    simp +contextual [raisedState, opcode_eq_verify, hnop]
  · cases i <;> simp [completedState, Instr.opcode]

/-- No command touches what the host has still to present. -/
theorem exec_port {i : Instr} {s t : State} (h : exec i s = .next t) : t.port = s.port := by
  obtain ⟨-, -, -, -, -, -, -, -, hport⟩ := onlyTheNamedCommandsWrite i s t h
  exact hport

/-- Only ENC, CLRB and PUSHB write LEN (10_state.md R25). -/
theorem exec_len {i : Instr} {s t : State} (hi : i.opcode ∉ [Opcode.enc, .clrb, .pushb]) (h : exec i s = .next t) :
    t.len = s.len := by
  obtain ⟨-, -, hlen, -⟩ := onlyTheNamedCommandsWrite i s t h
  exact hlen hi

/-- Only ENC, CLRB, PUSHB and WRB write IMG (10_state.md R25). -/
theorem exec_img {i : Instr} {s t : State} (hi : i.opcode ∉ [Opcode.enc, .clrb, .pushb, .wrb])
    (h : exec i s = .next t) : t.img = s.img := by
  obtain ⟨-, himg, -⟩ := onlyTheNamedCommandsWrite i s t h
  exact himg hi

/-! ## What a command reads -/

/-- The answer from a changed state that meets the same test is of the same form. -/
theorem exec_transfer {i : Instr} {s s' t t' : State} (h : exec i s = .next t)
    (htest : raisedError i s' = raisedError i s)
    (hraised : ∀ e, raisedError i s = some e → t = raisedState e i s → t' = raisedState e i s')
    (hcompleted : t = completedState i s → t' = completedState i s') : exec i s' = .next t' := by
  rw [exec_eq_next, htest]
  obtain ⟨e, hraise, ht⟩ | ⟨hnone, ht⟩ := exec_eq_next.mp h
  · exact .inl ⟨e, hraise, hraised e hraise ht⟩
  · exact .inr ⟨hnone, hcompleted ht⟩

/-- Settles O37: neither the test nor the two forms of the answer look at the four result registers. -/
theorem noCommandReadsTheResultRegisters : Obligations.NoCommandReadsTheResultRegisters := by
  intro i s t e v c r h
  refine exec_transfer h (raisedError_congr rfl rfl) ?_ ?_
  · rintro e' hraise rfl
    obtain ⟨hnop, hcsum⟩ := opcode_of_raises hraise
    by_cases hverify : i.opcode = .verify <;> simp [raisedState, ← opcode_eq_verify, hnop, hcsum, hverify]
  · rintro rfl
    cases i <;> simp [completedState, Instr.opcode, okCode]

/-- Only VALID and ENC test the settings. -/
theorem raisedError_replace_settings {i : Instr} {s : State} (st : Settings) (hi : i.opcode ∉ [Opcode.valid, .enc]) :
    raisedError i { s with settings := st } = raisedError i s := by
  cases i <;> simp [Instr.opcode] at hi <;> rfl

/-- Settles O38: the view enters no test, the settings those of VALID and ENC alone, and of the completions only RDV's and
ENC's look at them. -/
theorem settingsAndViewDoNotLeak : Obligations.SettingsAndViewDoNotLeak := by
  refine ⟨fun i s t st hi h => ?_, fun k v s t st h => ?_, fun i s t vw hi h => ?_, fun s t vw h => ?_⟩
  · refine exec_transfer h (raisedError_replace_settings st (by simp_all)) (fun _ _ ht => ht ▸ rfl) ?_
    rintro rfl
    cases i <;> simp_all [completedState, Instr.opcode]
  · rw [exec_setf] at h ⊢
    cases h
    rfl
  · refine exec_transfer h (raisedError_congr rfl rfl) (fun _ _ ht => ht ▸ rfl) ?_
    rintro rfl
    cases i <;> simp_all [completedState, Instr.opcode]
  · refine exec_transfer h (raisedError_congr rfl rfl) ?_ ?_
    · rintro e - rfl
      simp [raisedState]
    · rintro rfl
      rfl

/-! ## Doing a command twice -/

theorem Settings.set_set (st : Settings) (k : Setting) (v w : Half) : (st.set k v).set k w = st.set k w := by
  cases k <;> rfl

/-- A raise leaves what its command's test looks at, so the command raises again. -/
theorem exec_raisedState {i : Instr} {s : State} {e : Error} (h : raisedError i s = some e) :
    exec i (raisedState e i s) = .next (raisedState e i s) := by
  have htest : raisedError i (raisedState e i s) = raisedError i s := raisedError_congr rfl rfl
  refine exec_eq_next.mpr (.inl ⟨e, htest.trans h, ?_⟩)
  by_cases hverify : i = .verify <;> simp [raisedState, hverify]

/-- A completion leaves what its command's test looks at, or the command makes no test. -/
theorem raisedError_completedState (i : Instr) (s : State) :
    raisedError i (completedState i s) = raisedError i s := by
  cases i <;> rfl

/-- A command but PUSHB that completed completes again, with nothing left to change. -/
theorem exec_completedState {i : Instr} {s : State} (hi : i.opcode ≠ .pushb) (h : raisedError i s = none) :
    exec i (completedState i s) = .next (completedState i s) := by
  refine exec_eq_next.mpr (.inr ⟨(raisedError_completedState i s).trans h, ?_⟩)
  cases i with
  | pushb b => exact absurd rfl hi
  | setf k v => simp [completedState, Settings.set_set]
  | wrb idx b => simp [completedState, Memory.write_write]
  | _ => rfl

/-- Each PUSHB counts, up to 255 (R123). -/
theorem toNat_len_of_exec_pushb {b : Byte} {s t : State} (h : exec (.pushb b) s = .next t) :
    t.len.toNat = min (s.len.toNat + 1) 255 := by
  obtain ⟨-, rfl⟩ | ⟨-, rfl⟩ := execPushb_next.mp h <;> exact countedLen_toNat s.len

/-- Settles O15: the two forms of an answer are answered again by themselves; a second PUSHB counts once more. -/
theorem commandsButPushbAreIdempotent : Obligations.CommandsButPushbAreIdempotent := by
  refine ⟨fun i s t hi h => ?_, fun b s t hlen h hagain => ?_, fun i s t hi h => ⟨?_, ?_⟩⟩
  · obtain ⟨e, hraise, rfl⟩ | ⟨hnone, rfl⟩ := exec_eq_next.mp h
    · exact exec_raisedState hraise
    · exact exec_completedState hi hnone
  · have hfirst := toNat_len_of_exec_pushb h
    have hsecond := toNat_len_of_exec_pushb hagain
    omega
  · exact exec_img (by cases i <;> simp_all [Instr.opcode]) h
  · exact exec_len (by cases i <;> simp_all [Instr.opcode]) h

/-! ## A blob that is too long -/

/-- Settles O16: PUSHB past the end counts and stores nothing; the commands but PUSHB, CLRB and ENC keep LEN. -/
theorem overlongBlobStaysOverlong : Obligations.OverlongBlobStaysOverlong := by
  refine ⟨fun b s hlen => ?_, fun i s t hlong hclrb henc h => ?_⟩
  · have hcount : (countedLen s.len).toNat = 187 := by rw [countedLen_toNat, hlen]; rfl
    have hlong : (countedLen s.len).toNat ≠ 186 := by omega
    exact ⟨_, exec_pushb_of_ge b hlen.ge, fun _ => rfl, hcount, exec_dec_of_not_whole hlong,
      exec_verify_of_not_whole hlong⟩
  · by_cases hpushb : ∃ b, i = .pushb b
    · obtain ⟨b, rfl⟩ := hpushb
      have := toNat_len_of_exec_pushb h
      omega
    · have hlen : t.len = s.len := exec_len (by cases i <;> simp_all [Instr.opcode]) h
      rwa [hlen]

end Sys2Proof.Machine
end

section
/-! The host's acts: what a step does with each, that every step answers and keeps the image buffer in canonical form, and
that a run on the words of a sequence is the sequence. -/

namespace Sys2Proof.Machine

/-- The two ways a command word answers (30_encoding.md R60, R61). -/
theorem execWord_cases {w : Word} {s t : State} (h : execWord w s = .next t) :
    (∃ i, decode w = .instr i ∧ exec i s = .next t) ∨
      ((∃ why, decode w = .illegal why) ∧ t = { s with err := 3 }) := by
  cases hw : decode w with
  | instr i => exact .inl ⟨i, rfl, execWord_of_decode_instr hw s ▸ h⟩
  | illegal why =>
    rw [execWord_of_decode_illegal hw] at h
    cases h
    exact .inr ⟨⟨why, rfl⟩, rfl⟩

/-- The three ways a step answers (log entry 1). -/
theorem step_cases {s t : State} (h : step s = .next t) :
    (s.port = [] ∧ t = s) ∨
      (∃ rest, s.port = .reset :: rest ∧ t = (s.setPort rest).applyReset) ∨
      ∃ w rest, s.port = .command w :: rest ∧ execWord w (s.setPort rest) = .next t := by
  cases hport : s.port with
  | nil =>
    rw [step_idle hport] at h
    cases h
    exact .inl ⟨rfl, rfl⟩
  | cons a rest =>
    rw [step_act hport] at h
    cases a with
    | command w => exact .inr (.inr ⟨w, rest, rfl, h⟩)
    | reset =>
      cases h
      exact .inr (.inl ⟨rest, rfl, rfl⟩)

/-! ## The canonical form of the image buffer -/

/-- Every field lies inside the image. -/
theorem wf_putField {m : Memory} (k : Field) (v : Int) (h : m.wf = true) : (putField m k v).wf = true := by
  have hinside : (fieldLayout k).startOffset + (fieldLayout k).width ≤ Config.imgLen := by cases k <;> decide
  exact Memory.wf_writeLE _ v hinside h

theorem wf_encodeImage (order : Config.ThrOrder) (st : Settings) : (encodeImage order st).wf = true := by
  unfold encodeImage imageBody
  repeat apply wf_putField
  exact Memory.wf_zero

/-- Settles O42: the reset image lists nothing. -/
theorem resetImageIsCanonical : Obligations.ResetImageIsCanonical := Memory.wf_zero

/-- Every command keeps the canonical form: PUSHB and WRB write below 186 alone, ENC builds its image field by field. -/
theorem exec_inv {i : Instr} {s t : State} (hs : s.Inv) (h : exec i s = .next t) : t.Inv := by
  by_cases hi : i.opcode ∈ [Opcode.enc, .clrb, .pushb, .wrb]
  · cases i <;> simp [Instr.opcode] at hi
    case clrb => rw [execClrb_next.mp h]; exact Memory.wf_zero
    case enc =>
      obtain ⟨-, rfl⟩ | ⟨-, rfl⟩ := execEnc_next.mp h
      · exact wf_encodeImage _ _
      · exact hs
    case pushb b =>
      obtain ⟨hlen, rfl⟩ | ⟨-, rfl⟩ := execPushb_next.mp h
      · exact Memory.wf_write b hlen hs
      · exact hs
    case wrb idx b =>
      obtain ⟨hidx, rfl⟩ | ⟨-, rfl⟩ := execWrb_next.mp h
      · exact Memory.wf_write b hidx hs
      · exact hs
  · have himg : t.img = s.img := exec_img hi h
    rwa [State.Inv, himg]

theorem execWord_inv {w : Word} {s t : State} (hs : s.Inv) (h : execWord w s = .next t) : t.Inv := by
  obtain ⟨i, -, hexec⟩ | ⟨-, rfl⟩ := execWord_cases h
  · exact exec_inv hs hexec
  · exact hs

theorem step_inv {s t : State} (hs : s.Inv) (h : step s = .next t) : t.Inv := by
  obtain ⟨-, rfl⟩ | ⟨rest, -, rfl⟩ | ⟨w, rest, -, hword⟩ := step_cases h
  · exact hs
  · exact resetImageIsCanonical
  · exact execWord_inv (s := s.setPort rest) hs hword

/-- Settles O43: every act keeps the canonical form, in which nothing stands at 186 or beyond. -/
theorem stepKeepsTheImageCanonical : Obligations.StepKeepsTheImageCanonical := fun _ _ hs h =>
  have ht := step_inv hs h
  ⟨ht, fun _ hi => Memory.read_beyond ht hi⟩

/-! ## One step -/

/-- A step on a word that decodes is the command it decodes to. -/
theorem step_of_decode_instr {s : State} {w : Word} {rest : List HostAct} {i : Instr}
    (hport : s.port = .command w :: rest) (hw : decode w = .instr i) : step s = exec i (s.setPort rest) := by
  rw [step_act hport]
  exact execWord_of_decode_instr hw _

/-- Settles O1: the four things the port can hold first. -/
theorem stepRunsTheDecodedCommand : Obligations.StepRunsTheDecodedCommand := by
  refine ⟨fun _ _ _ _ => step_of_decode_instr, fun s w rest why hport hw => ?_, fun s rest hport => ?_,
    fun _ => step_idle⟩
  · rw [step_act hport]
    exact execWord_of_decode_illegal hw _
  · rw [step_act hport]
    rfl

theorem tableWord_toNat (w : Word) : tableWord 32 w.toNat = w := by
  rw [tableWord, Nat.mod_eq_of_lt w.isLt, BitVec.ofNat_toNat, BitVec.setWidth_eq]

/-- Settles O2: a 32-bit table word is the command word itself, first in the port. -/
theorem presentedTableWordRunsNext : Obligations.PresentedTableWordRunsNext := by
  intro s w i hw
  have hport : (s.withFetchWord 32 w.toNat).port = .command w :: s.port := by
    rw [State.withFetchWord, tableWord_toNat]
    rfl
  exact ⟨by rw [decodeTableWord, tableWord_toNat, hw], step_of_decode_instr hport hw⟩

/-- No word touches what the host has still to present. -/
theorem execWord_port {w : Word} {s t : State} (h : execWord w s = .next t) : t.port = s.port := by
  obtain ⟨i, -, hexec⟩ | ⟨-, rfl⟩ := execWord_cases h
  · exact exec_port hexec
  · rfl

/-- The reset input (70_reset_and_hazards.md R170). -/
theorem execAct_reset (s : State) : execAct .reset s = .next { State.reset with port := s.port } := rfl

/-- Settles O41: of the state before it, reset keeps the port alone, and no word changes the port. -/
theorem resetForgetsEverything : Obligations.ResetForgetsEverything :=
  ⟨execAct_reset, fun w s t h => by rw [execAct_reset, execAct_reset, execWord_port h]⟩

/-! ## Every step answers, and runs -/

theorem execWord_answers (w : Word) (s : State) : ∃ t, execWord w s = .next t := by
  cases hw : decode w with
  | instr i => exact execWord_of_decode_instr hw s ▸ exec_answers i s
  | illegal why => exact ⟨_, execWord_of_decode_illegal hw s⟩

theorem step_answers (s : State) : ∃ t, step s = .next t := by
  cases hport : s.port with
  | nil => exact ⟨s, step_idle hport⟩
  | cons a rest =>
    rw [step_act hport]
    cases a with
    | command w => exact execWord_answers w _
    | reset => exact ⟨_, execAct_reset _⟩

/-- No run stops, by induction on its length. -/
theorem safeRun (n : Nat) (s : State) : SafeRun n s := by
  induction n generalizing s with
  | zero => exact ⟨s, rfl⟩
  | succ n ih =>
    obtain ⟨t, hst⟩ := step_answers s
    obtain ⟨u, htu⟩ := ih t
    exact ⟨u, (run_succ_next hst).trans htu⟩

/-- Settles O44: words, steps and runs. -/
theorem everyStepAnswers : Obligations.EveryStepAnswers := ⟨execWord_answers, step_answers, safeRun⟩

@[simp] theorem State.setPort_setPort (s : State) (p q : List HostAct) : (s.setPort p).setPort q = s.setPort q := rfl

/-- No command reads what the host has still to present. -/
theorem exec_setPort {i : Instr} {s t : State} (p : List HostAct) (h : exec i s = .next t) :
    exec i (s.setPort p) = .next (t.setPort p) := by
  refine exec_transfer h (raisedError_congr rfl rfl) (fun _ _ ht => ht ▸ rfl) ?_
  rintro rfl
  cases i <;> rfl

/-- A run on the words of a sequence that stand first in the port, by induction on the sequence. -/
theorem run_words {cmds : List Instr} {rest : List HostAct} {s : State} (hwf : ∀ i ∈ cmds, i.wellFormed = true)
    (hport : s.port = cmds.map (fun i => HostAct.command (encode i)) ++ rest) :
    Host.Core.run Sys2Proof.core cmds.length s = execAll cmds (s.setPort rest) := by
  induction cmds generalizing s with
  | nil =>
    have hs : s.setPort rest = s := by rw [← show s.port = rest from hport]; rfl
    rw [hs]
    rfl
  | cons i cmds ih =>
    obtain ⟨hi, hcmds⟩ := List.forall_mem_cons.mp hwf
    have hword := step_of_decode_instr hport (decode_eq_instr.mpr ⟨hi, rfl⟩)
    obtain ⟨t, ht⟩ := exec_answers i (s.setPort (cmds.map (fun i => HostAct.command (encode i)) ++ rest))
    have hstep : step s = .next t := hword.trans ht
    have hexec : exec i (s.setPort rest) = .next (t.setPort rest) := by
      simpa only [State.setPort_setPort] using exec_setPort rest ht
    rw [List.length_cons, run_succ_next hstep, execAll_cons_next hexec]
    exact ih hcmds (exec_port ht)

/-- Settles O45: the port holds the words of the sequence first. -/
theorem runAppliesTheCommandsInOrder : Obligations.RunAppliesTheCommandsInOrder := fun _ _ _ hwf =>
  run_words hwf rfl

/-! ## Side by side -/

/-- Settles O46: stepping one entry of the list sets that entry alone. -/
theorem instancesShareNothing : Obligations.InstancesShareNothing := by
  intro k ms ms' h
  cases hk : ms[k]? with
  | none =>
    simp only [stepInstance, hk, Host.Outcome.next.injEq] at h
    subst h
    exact ⟨fun _ _ => rfl, fun s hs => by simp at hs⟩
  | some s =>
    obtain ⟨t, ht⟩ := step_answers s
    simp only [stepInstance, hk, ht, Host.Outcome.next.injEq] at h
    subst h
    obtain ⟨hlt, -⟩ := List.getElem?_eq_some_iff.mp hk
    refine ⟨fun j hj => List.getElem?_set_ne hj.symm, fun s' hs' => ?_⟩
    cases hs'
    exact ⟨t, ht, List.getElem?_set_self hlt⟩

end Sys2Proof.Machine
end

section
/-! The encoded image as a whole (41_encode.md sections 1 to 3). Below index 184 it is the table of 30_encoding.md R52; the
checksum byte is taken over those bytes, so the image is the table everywhere, and the properties of R92 and R93 are read
off it. -/

namespace Sys2Proof.Machine

/-! ## The image is the field mux -/

/-- A settings register as a signed number, from its bits. -/
theorem sval_eq_ite (v : Half) : sval v = if v.toNat < 32768 then (v.toNat : Int) else (v.toNat : Int) - 65536 := by
  rw [sval, BitVec.toInt_eq_toNat_cond]
  split <;> split <;> omega

theorem toNat_lowByte (v : Half) : (lowByte v).toNat = v.toNat % 256 := by
  simp [lowByte, BitVec.extractLsb'_toNat]

theorem toNat_highByte (v : Half) : (highByte v).toNat = v.toNat / 256 := by
  have hv := v.isLt
  simp [highByte, BitVec.extractLsb'_toNat, Nat.shiftRight_eq_div_pow]
  omega

/-- A number is stored as the byte whose remainder modulo 256 it has. -/
theorem ofInt_eq_of_emod {v : Int} {b : Byte} (h : v % 256 = b.toNat) : BitVec.ofInt 8 v = b := by
  have hv := toNat_ofInt_byte v
  exact BitVec.eq_of_toNat_eq (by omega)

theorem ofInt_sval (v : Half) : BitVec.ofInt 8 (sval v) = lowByte v := by
  apply ofInt_eq_of_emod
  rw [sval_eq_ite, toNat_lowByte]
  split <;> omega

theorem ofInt_sval_div (v : Half) : BitVec.ofInt 8 (sval v / 256) = highByte v := by
  have hv := v.isLt
  apply ofInt_eq_of_emod
  rw [sval_eq_ite, toNat_highByte]
  split <;> omega

/-- Masking to 8 bits before the store changes nothing (R89). -/
theorem ofInt_storedFilter (v : Int) : BitVec.ofInt 8 (storedFilter v) = BitVec.ofInt 8 v := by
  apply ofInt_eq_of_emod
  rw [toNat_ofInt_byte, storedFilter, Int.emod_emod_of_dvd _ (dvd_refl _)]

/-- Below the checksum the step-by-step encoder (R85) is the field mux (R52): a field's bytes, or zero. -/
theorem read_encodeImage_of_lt (st : Settings) {i : Nat} (hi : i < 184) :
    Memory.read (encodeImage Config.thrOrder st) i = muxBody st i := by
  have hstart := read_encodeImage_startOffset Config.thrOrder st
  have hcovers := fun k i => read_encodeImage_of_fieldCovers Config.thrOrder st (k := k) (i := i)
  unfold muxBody
  split
  · exact hstart .protocolVersion
  · exact (hstart .xMax).trans (ofInt_sval _)
  · exact (hcovers .xMax 2 (by decide)).trans (ofInt_sval_div _)
  · exact (hstart .yMax).trans (ofInt_sval _)
  · exact (hcovers .yMax 4 (by decide)).trans (ofInt_sval_div _)
  · exact hstart .numTouchPoints
  · exact hstart .shakeCount
  · exact (hstart .filterCoefficient).trans ((ofInt_storedFilter _).trans (ofInt_sval _))
  · exact hstart .touchThreshold
  · by_cases hmsw1 : i = 6
    · exact hmsw1 ▸ hstart .moduleSwitch1
    by_cases hmsw2 : i = 7
    · exact hmsw2 ▸ hstart .moduleSwitch2
    have hreserved : i = 10 ∨ i = 11 ∨ (13 ≤ i ∧ i ≤ 183) := by
      simp only [imp_false] at *
      omega
    exact read_encodeImage_of_reserved _ _ ((reservedIndex_iff i).mpr hreserved)

/-- The checksum is computed before it and the sentinel are stored, over bytes that they do not cover. -/
theorem imageCsum_imageBody (order : Config.ThrOrder) (st : Settings) :
    imageCsum (imageBody order st) = imageCsum (encodeImage order st) := by
  refine congrArg csum (Memory.bytes_congr fun i (hi : i < 184) => ?_)
  have hcsum : ¬ fieldCovers .checksum i = true := by simp only [fieldCovers_iff, fieldLayout]; omega
  have hfresh : ¬ fieldCovers .configFresh i = true := by simp only [fieldCovers_iff, fieldLayout]; omega
  rw [encodeImage, read_putField, if_neg hfresh, read_putField, if_neg hcsum]

/-- The stored checksum is that of the image it stands in (R92). -/
theorem read_encodeImage_checksum (order : Config.ThrOrder) (st : Settings) :
    Memory.read (encodeImage order st) 184 = csum (Memory.bytes (encodeImage order st) 184) := by
  have hstart : Memory.read (encodeImage order st) 184 = BitVec.ofInt 8 (imageCsum (imageBody order st)).toNat :=
    read_encodeImage_startOffset order st .checksum
  rw [hstart, BitVec.ofInt_natCast, BitVec.ofNat_toNat, BitVec.setWidth_eq, imageCsum_imageBody, imageCsum]

theorem read_encodeImage_configFresh (order : Config.ThrOrder) (st : Settings) :
    Memory.read (encodeImage order st) 185 = 0x01 :=
  read_encodeImage_startOffset order st .configFresh

/-- The encoded image is the table of R52, and nothing stands beyond it. -/
theorem read_encodeImage (st : Settings) (i : Nat) :
    Memory.read (encodeImage Config.thrOrder st) i = if i < 186 then muxByte st i else 0 := by
  by_cases hbody : i < 184
  · rw [read_encodeImage_of_lt st hbody, muxByte, if_pos hbody, if_pos (by omega)]
  by_cases hcsum : i = 184
  · subst hcsum
    have hbytes : Memory.bytes (encodeImage Config.thrOrder st) 184 = (List.range 184).map (muxBody st) :=
      List.map_congr_left fun i hi => read_encodeImage_of_lt st (List.mem_range.mp hi)
    rw [read_encodeImage_checksum, hbytes]
    rfl
  by_cases hfresh : i = 185
  · subst hfresh
    exact read_encodeImage_configFresh _ _
  rw [Memory.read_beyond (wf_encodeImage _ _) (show 186 ≤ i by omega), if_neg (by omega)]

theorem encode_enc : encode .enc = 0x30000000 := by decide

/-- ENC on other resolutions (R85) raises. -/
theorem exec_enc_of_not_legal {s : State} (h : ¬ LegalResolutions s.settings) :
    exec .enc s = .next { s with err := 1 } :=
  execEnc_next.mpr (.inr ⟨Bool.eq_false_iff.mpr (mt (validSettings_iff _).mp h), rfl⟩)

/-- Settles O20: ENC's two outcomes, and the image as the table. -/
theorem encDrivesTheImageFromTheFieldMux : Obligations.EncDrivesTheImageFromTheFieldMux :=
  ⟨encode_enc, fun s hlegal => ⟨_, exec_enc_of_legal hlegal, read_encodeImage s.settings, rfl, rfl, rfl, rfl,
    rfl, rfl, rfl, rfl⟩, fun _ => exec_enc_of_not_legal⟩

/-! ## The filter and the threshold -/

/-- Byte 9 as a number (R89). -/
theorem toNat_read_filter (st : Settings) : ((Memory.read (encodeImage Config.thrOrder st) 9).toNat : Int) =
    sval st.filterCoefficient % 256 := by
  have hbyte : Memory.read (encodeImage Config.thrOrder st) 9 =
      BitVec.ofInt 8 (storedFilter (sval st.filterCoefficient)) :=
    read_encodeImage_startOffset Config.thrOrder st .filterCoefficient
  rw [hbyte, ofInt_storedFilter, toNat_ofInt_byte]

/-- Byte 12 as a number (R90). -/
theorem toNat_read_threshold (st : Settings) : ((Memory.read (encodeImage Config.thrOrder st) 12).toNat : Int) =
    max 1 (sval st.touchThreshold) % 256 := by
  have hbyte : Memory.read (encodeImage Config.thrOrder st) 12 =
      BitVec.ofInt 8 (max 1 (sval st.touchThreshold) % 256) :=
    read_encodeImage_startOffset Config.thrOrder st .touchThreshold
  rw [hbyte, toNat_ofInt_byte, Int.emod_emod_of_dvd _ (dvd_refl _)]

/-- Settles O22: byte 9 as a number and as bits. -/
theorem filterIsMaskedToItsLowByte : Obligations.FilterIsMaskedToItsLowByte := fun s hlegal =>
  ⟨_, exec_enc_of_legal hlegal, toNat_read_filter s.settings, read_encodeImage_of_lt s.settings (by decide), rfl⟩

/-- Where the two values of THR_ORDER store different bytes (92_eei_decisions.md D12). -/
theorem storedThreshold_ne_iff (t : Int) :
    storedThreshold .floorThenTruncate t ≠ storedThreshold .truncateThenFloor t ↔
      (256 ≤ t ∧ t % 256 = 0) ∨ (t < 0 ∧ 1 < t % 256) := by
  simp only [storedThreshold, Config.thrMin]
  omega

/-- Where they store the same byte they store the same image. -/
theorem encodeImage_congr_threshold {order order' : Config.ThrOrder} {st : Settings}
    (h : storedThreshold order (sval st.touchThreshold) = storedThreshold order' (sval st.touchThreshold)) :
    encodeImage order st = encodeImage order' st := by
  have hbody : imageBody order st = imageBody order' st := by rw [imageBody, h, imageBody]
  rw [encodeImage, hbody, encodeImage]

/-- Settles O23: byte 12 as a number, and the two orders of floor and truncation compared. -/
theorem thresholdIsFlooredThenTruncated : Obligations.ThresholdIsFlooredThenTruncated := by
  refine ⟨fun s hlegal => ⟨_, exec_enc_of_legal hlegal, toNat_read_threshold s.settings⟩,
    fun t => ⟨rfl, rfl, storedThreshold_ne_iff t⟩, fun st hlo hhi => encodeImage_congr_threshold ?_⟩
  by_contra hne
  have := (storedThreshold_ne_iff _).mp hne
  omega

/-! ## The checksum of an encoded image -/

/-- A stretch of zero bytes adds nothing to the sum. -/
theorem byteSum_bytes_of_zero {m : Memory} {a b : Nat} (hab : a ≤ b)
    (hzero : ∀ i, a ≤ i → i < b → Memory.read m i = 0) :
    byteSum (Memory.bytes m b) = byteSum (Memory.bytes m a) := by
  induction b, hab using Nat.le_induction with
  | base => rfl
  | succ b hab ih =>
    have hb : Memory.read m b = 0 := hzero b hab (Nat.lt_succ_self b)
    have hrest := ih fun i hai hib => hzero i hai (Nat.lt_succ_of_lt hib)
    simp [Memory.bytes_succ, hb, hrest]

/-- Nine bytes of the encoded image below 184 can be non-zero, two of them constants (R92). -/
theorem byteSum_encodeImage {m : Memory} {st : Settings} (hm : m = encodeImage Config.thrOrder st) :
    byteSum (Memory.bytes m 184) =
      0x01 + (Memory.read m 1).toNat + (Memory.read m 2).toNat + (Memory.read m 3).toNat + (Memory.read m 4).toNat
        + (Memory.read m 5).toNat + 0x03 + (Memory.read m 9).toNat + (Memory.read m 12).toNat := by
  have hconstant : ∀ i, i < 184 → Memory.read m i = muxBody st i := fun i hi => hm ▸ read_encodeImage_of_lt st hi
  have hzero : ∀ i, 13 ≤ i → i < 184 → Memory.read m i = 0 := fun i hlo hhi =>
    hm ▸ read_encodeImage_of_reserved _ _ ((reservedIndex_iff i).mpr (by omega))
  rw [byteSum_bytes_of_zero (by decide : 13 ≤ 184) hzero]
  simp only [Memory.bytes_succ, show Memory.bytes m 0 = [] from rfl, byteSum_append, byteSum_cons, byteSum_nil,
    hconstant 0 (by decide), hconstant 6 (by decide), hconstant 7 (by decide), hconstant 8 (by decide),
    hconstant 10 (by decide), hconstant 11 (by decide), muxBody]
  rfl

/-- Settles O24: the stored checksum is the image's own, over nine bytes that can be non-zero. -/
theorem encStoresAWellFormedImage : Obligations.EncStoresAWellFormedImage := by
  intro s hlegal
  have hcsum := read_encodeImage_checksum Config.thrOrder s.settings
  have hfresh := read_encodeImage_configFresh Config.thrOrder s.settings
  refine ⟨_, exec_enc_of_legal hlegal, ?_, ?_, hfresh⟩
  · exact Bool.and_eq_true_iff.mpr ⟨beq_iff_eq.mpr hcsum, beq_iff_eq.mpr hfresh⟩
  · have hnum := congrArg BitVec.toNat hcsum
    rwa [toNat_csum, byteSum_encodeImage rfl] at hnum

/-! ## The source's properties -/

/-- The view of an image depends on the bytes that a field covers alone (R53). -/
theorem muxView_congr {f g : Nat → Byte}
    (h : ∀ i, i < 186 → ¬ (i = 10 ∨ i = 11 ∨ (13 ≤ i ∧ i ≤ 183)) → f i = g i) : muxView f = muxView g := by
  simp (disch := decide) only [muxView, h]

/-- Settles O27: the fields cover no reserved byte. -/
theorem decIgnoresReservedBytes : Obligations.DecIgnoresReservedBytes := by
  intro s m hwhole hagree
  have hview : muxView (Memory.read s.img) = muxView (Memory.read m) :=
    muxView_congr fun i hi hcovered => (hagree i hi hcovered).symm
  exact ⟨_, _, exec_dec_of_whole hwhole, exec_dec_of_whole (s := { s with img := m }) hwhole, hview⟩

/-- VERIFY on a whole blob (R113): the whole state it answers. -/
theorem exec_verify_of_whole {s : State} (h : s.len.toNat = 186) :
    exec .verify s = .next { s with vok := checksumMatches s.img, err := 0 } :=
  execVerify_next.mpr (.inl ⟨h, rfl⟩)

/-- VERIFY on a whole blob that carries its own checksum sets VOK. -/
theorem exec_verify_of_matches {s : State} (h : s.len.toNat = 186) (hmatches : checksumMatches s.img = true) :
    exec .verify s = .next { s with vok := true, err := 0 } := by
  rw [exec_verify_of_whole h, hmatches]

/-- The encoded image carries its own checksum (R93 (b)). -/
theorem checksumMatches_encodeImage (order : Config.ThrOrder) (st : Settings) :
    checksumMatches (encodeImage order st) = true :=
  (checksumMatches_iff _).mpr (read_encodeImage_checksum order st).symm

/-- The two bytes of a legal resolution are put together again (R93 (c)). -/
theorem toNat_append_of_legal_resolution {v : Int} (hv : 0 < v ∧ v ≤ 4095 ∧ v % 2 = 0) {lo hi : Byte}
    (hlo : lo = BitVec.ofInt 8 v) (hhi : hi = BitVec.ofInt 8 (v / 256)) : ((hi ++ lo).toNat : Int) = v := by
  obtain ⟨hlow, hhigh, -, -⟩ := bytes_of_legal_resolution hv hlo hhi
  rw [toNat_append_bytes]
  omega

/-- Settles O25: ENC's image sums to 0, so VERIFY passes; DEC puts the field bytes together again; a failed ENC is a
raise. -/
theorem encodedImageHasTheSourcesProperties : Obligations.EncodedImageHasTheSourcesProperties := by
  refine ⟨fun s hlegal => ?_, fun s s' t t' hlegal hsettings h h' => ?_, fun s t h herr => ?_⟩
  · obtain ⟨hlegalX, hlegalY⟩ := hlegal
    have hmatches := checksumMatches_encodeImage Config.thrOrder s.settings
    have hstart := read_encodeImage_startOffset Config.thrOrder s.settings
    have hcovers := fun k i => read_encodeImage_of_fieldCovers Config.thrOrder s.settings (k := k) (i := i)
    obtain ⟨hn, -, -⟩ := byte_of_storedTouchPoints (hstart .numTouchPoints)
    exact ⟨_, exec_enc_of_legal ⟨hlegalX, hlegalY⟩, rfl, rfl, (checksumMatches_iff_byteSum _).mp hmatches,
      exec_verify_of_matches rfl hmatches, _, exec_dec_of_whole rfl, rfl,
      toNat_append_of_legal_resolution hlegalX (hstart .xMax) (hcovers .xMax 2 (by decide)),
      toNat_append_of_legal_resolution hlegalY (hstart .yMax) (hcovers .yMax 4 (by decide)), hn,
      toNat_read_filter s.settings, toNat_read_threshold s.settings, hstart .protocolVersion,
      hstart .moduleSwitch1, hstart .moduleSwitch2, hstart .shakeCount, rfl, hstart .configFresh⟩
  · rw [exec_enc_of_legal hlegal] at h
    rw [exec_enc_of_legal (hsettings ▸ hlegal), ← hsettings] at h'
    cases h
    cases h'
    rfl
  · obtain ⟨hraise, -⟩ := raiseChangesErrAlone
    exact hraise .enc s t h (by decide) herr

end Sys2Proof.Machine
end

section
/-! Single bytes of the image (44_data_movement.md R124, R126) and what VERIFY makes of a changed one (43_checksum.md R115,
R116). The verdict is whether bytes 0..184 sum to 0 in the ring of bytes, and a write adds to that sum the difference of the
new byte and the old. -/

namespace Sys2Proof

theorem toNat_encode_wrb (idx : BitVec 12) (b : Byte) :
    (encode (.wrb idx b)).toNat = 0x60000000 + idx.toNat * 2 ^ 16 + b.toNat := by
  have himm : (b.setWidth 16).toNat = b.toNat := BitVec.toNat_setWidth_of_le (by decide)
  simp [toNat_encode, Instr.opcode, Opcode.code, Instr.aOperand, Instr.immOperand, himm]

theorem toNat_encode_rdb (idx : BitVec 12) : (encode (.rdb idx)).toNat = 0x70000000 + idx.toNat * 2 ^ 16 := by
  simp [toNat_encode, Instr.opcode, Opcode.code, Instr.aOperand, Instr.immOperand]

end Sys2Proof

namespace Sys2Proof.Machine

/-- WRB and RDB with an index outside the image are on R61's list. -/
theorem listedIllegal_of_index {w : Word} (hop : opNum w = 6 ∨ opNum w = 7) (hidx : 186 ≤ aNum w) :
    ListedIllegal w := by
  rcases hop with hop | hop <;> simp [ListedIllegal, hop, hidx]

/-- WRB inside the image (R124): the whole state it answers. -/
theorem exec_wrb {idx : BitVec 12} (b : Byte) (s : State) (hidx : idx.toNat < 186) :
    exec (.wrb idx b) s = .next { s with img := Memory.write s.img idx.toNat b, err := 0 } :=
  execWrb_next.mpr (.inl ⟨hidx, rfl⟩)

/-- Settles O12: WRB's two outcomes, by its index. -/
theorem wrbWritesOneByte : Obligations.WrbWritesOneByte := by
  refine ⟨toNat_encode_wrb, fun idx b s hidx => ?_, fun idx b s hidx => execWrb_next.mpr (.inr ⟨hidx, rfl⟩),
    fun w s hop hidx => execWord_of_listedIllegal (listedIllegal_of_index (.inl hop) hidx) s⟩
  refine ⟨_, exec_wrb b s hidx, absoluteIndex_eq_some.mpr ⟨rfl, hidx⟩, fun i hi j => ?_, rfl, rfl, rfl, rfl, rfl, rfl,
    rfl, rfl⟩
  obtain ⟨rfl, -⟩ := absoluteIndex_eq_some.mp hi
  exact Memory.read_write _ _ _ _

/-- Settles O13: RDB's two outcomes, by its index. -/
theorem rdbReadsOneByte : Obligations.RdbReadsOneByte :=
  ⟨toNat_encode_rdb, fun _ _ hidx => execRdb_next.mpr (.inl ⟨hidx, rfl⟩),
    fun _ _ hidx => execRdb_next.mpr (.inr ⟨hidx, rfl⟩),
    fun _ s hop hidx => execWord_of_listedIllegal (listedIllegal_of_index (.inr hop) hidx) s⟩

/-- Settles O40: the reset state's resolutions are 0, its LEN is 0 and its view is zero. -/
theorem afterResetNothingIsEncodedOrDecoded : Obligations.AfterResetNothingIsEncodedOrDecoded := by
  have hillegal : ¬ LegalResolutions State.reset.settings := by unfold LegalResolutions; decide
  have hlen : State.reset.len.toNat ≠ 186 := by decide
  obtain ⟨-, -, hvalid⟩ := validReportsInErrAlone
  refine ⟨hvalid _ hillegal, exec_enc_of_not_legal hillegal, exec_dec_of_not_whole hlen, exec_verify_of_not_whole hlen,
    fun k => ?_⟩
  rw [exec_rdv]
  cases k <;> rfl

/-! ## The sum of the image's bytes -/

/-- A write replaces the byte at its index, where that is one of the n bytes. -/
theorem Memory.bytes_write (m : Memory) (n i : Nat) (b : Byte) :
    Memory.bytes (Memory.write m i b) n = (Memory.bytes m n).set i b := by
  apply List.ext_getElem
  · simp
  · intro j hj hj'
    rw [Memory.bytes_getElem, List.getElem_set, Memory.bytes_getElem, Memory.read_write]
    simp only [eq_comm]

/-- Writing one of the summed bytes changes the sum by the difference. -/
theorem Memory.sum_bytes_write (m : Memory) {n i : Nat} (b : Byte) (hi : i < n) :
    (Memory.bytes (Memory.write m i b) n).sum = (Memory.bytes m n).sum + (b - Memory.read m i) := by
  rw [Memory.bytes_write, List.sum_set', dif_pos (by simpa using hi), Memory.bytes_getElem]
  ring

/-- The verdict of VERIFY in the ring of bytes (R113). -/
theorem checksumMatches_iff_sum (m : Memory) : checksumMatches m = true ↔ (Memory.bytes m 185).sum = 0 := by
  rw [checksumMatches_iff_byteSum, ← ofNat_byteSum, ← BitVec.toNat_inj, BitVec.toNat_ofNat]
  rfl

/-- A VERIFY that sets VOK tested a whole blob, found the verdict true, and kept both. -/
theorem whole_and_matches_of_verify {s t : State} (h : exec .verify s = .next t) (hvok : t.vok = true) :
    t.len.toNat = 186 ∧ checksumMatches t.img = true ∧ t.img = s.img := by
  obtain ⟨hlen, rfl⟩ | ⟨-, rfl⟩ := execVerify_next.mp h
  · exact ⟨hlen, hvok, rfl⟩
  · cases hvok

/-- WRB, then VERIFY, on a whole blob: the verdict on the image written. -/
theorem execAll_wrb_verify {idx : BitVec 12} (b : Byte) {s : State} (hidx : idx.toNat < 186)
    (hlen : s.len.toNat = 186) : execAll [.wrb idx b, .verify] s = .next
      { s with
        img := Memory.write s.img idx.toNat b
        vok := checksumMatches (Memory.write s.img idx.toNat b)
        err := 0 } := by
  have hverify := exec_verify_of_whole (s := { s with img := Memory.write s.img idx.toNat b, err := 0 }) hlen
  rw [execAll_cons_next (exec_wrb b s hidx), execAll_cons_next hverify]
  rfl

/-- A swap of two summed bytes by two writes keeps the sum: it adds a difference and its negative. -/
theorem Memory.sum_bytes_swap (m : Memory) {n i j : Nat} (hi : i < n) (hj : j < n) :
    (Memory.bytes (Memory.write (Memory.write m i (Memory.read m j)) j (Memory.read m i)) n).sum =
      (Memory.bytes m n).sum := by
  have hsecond : Memory.read (Memory.write m i (Memory.read m j)) j = Memory.read m j := by
    rw [Memory.read_write, ite_self]
  rw [Memory.sum_bytes_write _ _ hj, Memory.sum_bytes_write _ _ hi, hsecond]
  ring

/-- Settles O32: one changed byte changes the sum, byte 185 is not summed, and a swap keeps the sum. -/
theorem verifyDetectsOneChangedByte : Obligations.VerifyDetectsOneChangedByte := by
  refine ⟨fun s t idx b h hvok hidx hne => ?_, fun s t b h hvok => ?_, fun s t i j h hvok hi hj => ?_⟩
  all_goals
    obtain ⟨hlen, hmatches, himg⟩ := whole_and_matches_of_verify h hvok
    rw [checksumMatches_iff_sum] at hmatches
  · refine ⟨_, execAll_wrb_verify b (by omega) hlen, Bool.eq_false_iff.mpr ?_, rfl⟩
    rw [Ne, checksumMatches_iff_sum, Memory.sum_bytes_write _ _ (by omega), hmatches, himg, zero_add, sub_eq_zero]
    exact hne
  · refine ⟨_, execAll_wrb_verify b (by decide) hlen, ?_, rfl⟩
    rw [checksumMatches_iff_sum, Memory.bytes_write, List.set_eq_of_length_le (by simp), hmatches]
  · have hfirst := exec_wrb (Memory.read s.img j.toNat) t (show i.toNat < 186 by omega)
    refine ⟨_, (execAll_cons_next hfirst).trans (execAll_wrb_verify _ (by omega) hlen), ?_, rfl⟩
    rw [checksumMatches_iff_sum, ← himg, Memory.sum_bytes_swap _ (by omega) (by omega), hmatches]

/-- Storing the checksum of bytes 0..183 behind them makes the verdict true. -/
theorem checksumMatches_write_imageCsum (m : Memory) : checksumMatches (Memory.write m 184 (imageCsum m)) = true := by
  rw [checksumMatches_iff, Memory.read_write_self, Memory.bytes_write, List.set_eq_of_length_le (by simp)]
  rfl

/-- Settles O33: WRB stores what CSUM computed. -/
theorem hostRepairsTheChecksum : Obligations.HostRepairsTheChecksum := fun s hlen =>
  ⟨_, _, execCsum_next.mpr rfl, execAll_wrb_verify _ (by decide) hlen, checksumMatches_write_imageCsum s.img, rfl⟩

end Sys2Proof.Machine
end

section
/-! Sequences of commands: the pseudo-instructions and the source's functions (30_encoding.md R64, R65). LOADIMG is followed
byte by byte: after each PUSHB the state presents the bytes loaded so far. -/

namespace Sys2Proof.Machine

/-! ## LOADIMG -/

/-- State t presents a blob that was loaded from state s: LEN counts it, IMG holds its first 186 bytes with zeros after
them, ERR is 0, and nothing else changed (R64). -/
structure Presents (blob : List Byte) (s t : State) : Prop where
  len : t.len.toNat = min blob.length 255
  img : ∀ i, Memory.read t.img i = if i < 186 then blobByte blob i else 0
  err : t.err = 0
  settings : t.settings = s.settings
  view : t.view = s.view
  outputs : SameOutputs s t

theorem blobByte_append_singleton (bs : List Byte) (b : Byte) (i : Nat) :
    blobByte (bs ++ [b]) i = if i = bs.length then b else blobByte bs i := by
  rcases Nat.lt_trichotomy i bs.length with hlt | heq | hgt
  · simp [blobByte, hlt, hlt.ne, hlt.le]
  · simp [blobByte, heq]
  · have hbeyond : (bs ++ [b]).length ≤ i := by simpa using hgt
    simp only [blobByte, List.getD_eq_default _ _ hbeyond, List.getD_eq_default _ _ hgt.le, hgt.ne', if_false]

theorem blobByte_of_lt {blob : List Byte} {i : Nat} (h : i < blob.length) : some (blobByte blob i) = blob[i]? := by
  simp [blobByte, h]

theorem blobByte_of_ge {blob : List Byte} {i : Nat} (h : blob.length ≤ i) : blobByte blob i = 0 := by
  simp [blobByte, h]

/-- After CLRB the empty blob is presented. -/
theorem presents_nil (s : State) : Presents [] s (((s.setImg Memory.zero).setLen 0).setErr okCode) where
  len := rfl
  img i := by simp [blobByte]
  err := rfl
  settings := rfl
  view := rfl
  outputs := ⟨rfl, rfl, rfl, rfl⟩

/-- Each PUSHB presents one byte more. -/
theorem Presents.pushb {bs : List Byte} {b : Byte} {s t u : State} (h : Presents bs s t)
    (hu : exec (.pushb b) t = .next u) : Presents (bs ++ [b]) s u := by
  have hlen := h.len
  have hcount : u.len.toNat = min (bs ++ [b]).length 255 := by
    have := toNat_len_of_exec_pushb hu
    rw [List.length_append, List.length_singleton]
    omega
  obtain ⟨hstored, rfl⟩ | ⟨hfull, rfl⟩ := execPushb_next.mp hu
  · refine ⟨hcount, fun i => ?_, rfl, h.settings, h.view, h.outputs⟩
    change t.len.toNat < 186 at hstored
    have hindex : t.len.toNat = bs.length := by omega
    rw [State.setErr_img, State.setLen_img, State.setImg_img, Memory.read_write, h.img, hindex,
      blobByte_append_singleton]
    by_cases hi : i = bs.length
    · rw [if_pos hi, if_pos hi, if_pos (by omega)]
    · rw [if_neg hi, if_neg hi]
  · refine ⟨hcount, fun i => ?_, rfl, h.settings, h.view, h.outputs⟩
    change 186 ≤ t.len.toNat at hfull
    rw [State.setErr_img, State.setLen_img, h.img, blobByte_append_singleton]
    by_cases hi : i < 186
    · rw [if_pos hi, if_pos hi, if_neg (by omega)]
    · rw [if_neg hi, if_neg hi]

/-- LOADIMG answers in every state, and presents its blob: by induction on the blob, its last byte last. -/
theorem execAll_loadImgSeq (blob : List Byte) (s : State) :
    ∃ t, execAll (loadImgSeq blob) s = .next t ∧ Presents blob s t := by
  induction blob using List.reverseRecOn with
  | nil => exact ⟨_, execAll_cons_next (exec_clrb s), presents_nil s⟩
  | append_singleton bs b ih =>
    obtain ⟨t, ht, hpresents⟩ := ih
    obtain ⟨u, hu⟩ := exec_answers (.pushb b) t
    have hsplit : loadImgSeq (bs ++ [b]) = loadImgSeq bs ++ [.pushb b] := by simp [loadImgSeq]
    refine ⟨u, ?_, hpresents.pushb hu⟩
    rw [hsplit, execAll_append_next ht, execAll_cons_next hu]
    rfl

/-- Settles O47: what a loaded blob presents, index by index. -/
theorem loadImgPresentsTheBlob : Obligations.LoadImgPresentsTheBlob := by
  intro blob s
  obtain ⟨t, ht, h⟩ := execAll_loadImgSeq blob s
  refine ⟨t, ht, h.len, fun i hi => ?_, fun i hi => ?_, h.err, h.settings, h.view, h.outputs⟩
  · rw [h.img, if_pos (by omega), blobByte_of_lt (by omega)]
  · rw [h.img]
    split
    · exact blobByte_of_ge (by omega)
    · rfl

/-- A sequence followed by one command answers what that command answers. -/
theorem execAll_concat {front : List Instr} {i : Instr} {s t u : State} (ht : execAll front s = .next t)
    (hu : exec i t = .next u) : execAll (front ++ [i]) s = .next u := by
  rw [execAll_append_next ht, execAll_cons_next hu]
  rfl

/-- The first bytes of a presented image are those of the blob. -/
theorem Presents.bytes {blob : List Byte} {s t : State} (h : Presents blob s t) {n : Nat} (hn : n ≤ 186)
    (hblob : n ≤ blob.length) : Memory.bytes t.img n = blob.take n := by
  apply List.ext_getElem
  · simp [hblob]
  · intro i hi _
    have hlt : i < n := by simpa using hi
    rw [Memory.bytes_getElem, h.img, if_pos (by omega), List.getElem_take, blobByte, List.getD_eq_getElem]

/-! ## The source's functions -/

/-- SETALL (R64): the five settings registers, ERR, and nothing else. -/
theorem execAll_setAllSeq (x y th n f : Half) (s : State) : execAll (setAllSeq x y th n f) s =
    .next { s with settings := ⟨x, y, th, n, f⟩, err := 0 } := rfl

theorem sourceEncode_of_legal {st : Settings} (h : LegalResolutions st) :
    sourceEncode st = some (Memory.bytes (encodeImage Config.thrOrder st) 186) := by
  have hbytes : Memory.bytes (encodeImage Config.thrOrder st) 186 = (List.range 186).map (muxByte st) :=
    List.map_congr_left fun i hi => (read_encodeImage st i).trans (if_pos (List.mem_range.mp hi))
  rw [sourceEncode, sourceValidate, if_pos ((validSettings_iff st).mpr h), hbytes]

theorem sourceEncode_of_not_legal {st : Settings} (h : ¬ LegalResolutions st) : sourceEncode st = none :=
  if_neg (mt (validSettings_iff st).mp h)

/-- Settles O48: SETALL supplies the settings, and ENC's image is the table of R52. -/
theorem encodeSequenceIsTheSourcesEncode : Obligations.EncodeSequenceIsTheSourcesEncode := by
  intro x y th n f s
  have hset := execAll_setAllSeq x y th n f s
  by_cases hlegal : LegalResolutions ⟨x, y, th, n, f⟩
  · refine ⟨_, execAll_concat hset (exec_enc_of_legal hlegal), rfl, rfl, ⟨rfl, rfl, rfl, rfl⟩, fun blob hblob => ?_,
      fun hnone => ?_⟩
    · rw [sourceEncode_of_legal hlegal, Option.some.injEq] at hblob
      exact ⟨rfl, rfl, hblob⟩
    · rw [sourceEncode_of_legal hlegal] at hnone
      cases hnone
  · refine ⟨_, execAll_concat hset (exec_enc_of_not_legal hlegal), rfl, rfl, ⟨rfl, rfl, rfl, rfl⟩, fun blob hblob => ?_,
      fun _ => ⟨rfl, rfl, rfl⟩⟩
    rw [sourceEncode_of_not_legal hlegal] at hblob
    cases hblob

/-- Settles O49: DEC reads the blob that LOADIMG presents, whole exactly when it has 186 bytes. -/
theorem decodeSequenceIsTheSourcesDecode : Obligations.DecodeSequenceIsTheSourcesDecode := by
  intro blob s
  obtain ⟨t, ht, h⟩ := execAll_loadImgSeq blob s
  have hlen := h.len
  by_cases hwhole : blob.length = 186
  · have hview : muxView (Memory.read t.img) = muxView (blobByte blob) :=
      muxView_congr fun i hi _ => (h.img i).trans (if_pos hi)
    refine ⟨_, execAll_concat ht (exec_dec_of_whole (by omega)), fun v hv => ?_, fun hnone => ?_⟩
    · rw [sourceDecode, if_pos hwhole, Option.some.injEq] at hv
      exact ⟨rfl, hview.trans hv⟩
    · simp [sourceDecode, hwhole] at hnone
  · refine ⟨_, execAll_concat ht (exec_dec_of_not_whole (by omega)), fun v hv => ?_, fun _ => ⟨rfl, h.view⟩⟩
    simp [sourceDecode, hwhole] at hv

/-- VALID's ERR tells the validator's verdict. -/
theorem err_of_valid {s t : State} (h : exec .valid s = .next t) :
    (t.err = 0 ↔ validSettings s.settings = true) ∧ (t.err = 1 ↔ validSettings s.settings = false) := by
  obtain ⟨hv, rfl⟩ | ⟨hv, rfl⟩ := execValid_next.mp h <;> simp [hv, okCode, Error.code]

/-- Settles O50: VALID, CSUM and VERIFY each on what the sequence before it supplied. -/
theorem validateComputeVerifySequencesAreTheSources : Obligations.ValidateComputeVerifySequencesAreTheSources := by
  refine ⟨fun x y s => ?_, fun blob s hlen => ?_, fun blob s hlen => ?_⟩
  · have hset : execAll [.setf .xMax x, .setf .yMax y] s =
        .next { s with settings := { s.settings with xMax := x, yMax := y }, err := 0 } := rfl
    obtain ⟨t, ht⟩ := exec_answers .valid _
    have herr := err_of_valid ht
    exact ⟨t, execAll_concat hset ht, herr⟩
  · obtain ⟨t, ht, h⟩ := execAll_loadImgSeq blob s
    have hbytes : Memory.bytes t.img 184 = blob := by
      rw [h.bytes (by decide) hlen.ge, List.take_of_length_le hlen.le]
    exact ⟨_, execAll_concat ht (execCsum_next.mpr rfl), congrArg csum hbytes, rfl⟩
  · obtain ⟨t, ht, h⟩ := execAll_loadImgSeq blob s
    have hcount := h.len
    have hverdict : checksumMatches t.img = sourceVerify blob := by
      rw [checksumMatches, storedCsum_eq, imageCsum, h.bytes (by decide) (hlen ▸ by decide), h.img]
      rfl
    exact ⟨_, execAll_concat ht (exec_verify_of_whole (by omega)), hverdict, rfl⟩

end Sys2Proof.Machine
end

section
/-! The assembler (30_encoding.md R63): its readers admit no operand out of range, so every command of a line is well
formed, and a well-formed command's word decodes to it. -/

namespace Sys2Proof.Machine

theorem lt_of_readUnsigned {bound n : Nat} {cs : List Char} (h : readUnsigned bound cs = some n) : n < bound := by
  unfold readUnsigned at h
  split at h
  case h_1 | h_2 =>
    obtain ⟨hlt, heq⟩ := Option.ite_none_right_eq_some.mp h
    exact Option.some.inj heq ▸ hlt
  case h_3 | h_4 => cases h

/-- An index the assembler reads lies inside the image. -/
theorem toNat_lt_of_readIdx {cs : List Char} {idx : BitVec 12} (h : readIdx cs = some idx) :
    idx.toNat < Config.imgLen := by
  obtain ⟨n, hn, rfl⟩ := Option.map_eq_some_iff.mp h
  have hlt := lt_of_readUnsigned hn
  exact (BitVec.toNat_ofNat n 12).trans_le (Nat.mod_le _ _) |>.trans_lt hlt

theorem wellFormed_of_readCommand {o : Opcode} {ops : List (List Char)} {i : Instr}
    (h : readCommand o ops = some i) : i.wellFormed = true := by
  cases i with
  | wrb idx b =>
    unfold readCommand at h
    split at h <;> simp [Option.bind_eq_some_iff] at h
    obtain ⟨hidx, -⟩ := h
    exact decide_eq_true (toNat_lt_of_readIdx hidx)
  | rdb idx =>
    unfold readCommand at h
    split at h <;> simp [Option.bind_eq_some_iff] at h
    exact decide_eq_true (toNat_lt_of_readIdx h)
  | _ => rfl

theorem wellFormed_of_expandHead {h : Head} {ops : List (List Char)} {cmds : List Instr}
    (hcmds : expandHead h ops = some cmds) : ∀ i ∈ cmds, i.wellFormed = true := by
  unfold expandHead at hcmds
  split at hcmds
  case h_1 =>
    obtain ⟨i, hi, rfl⟩ := Option.map_eq_some_iff.mp hcmds
    simpa using wellFormed_of_readCommand hi
  case h_2 | h_3 | h_4 =>
    split at hcmds <;> cases hcmds
    simp [setAllSeq, encodeSeq, validateSeq, Instr.wellFormed]
  case h_5 | h_6 =>
    obtain ⟨blob, -, rfl⟩ := Option.map_eq_some_iff.mp hcmds
    simp [decodeSeq, loadImgSeq, Instr.wellFormed, or_imp, forall_and]

theorem wellFormed_of_assembleLine {line : List Char} {cmds : List Instr} (h : assembleLine line = some cmds) :
    ∀ i ∈ cmds, i.wellFormed = true := by
  unfold assembleLine at h
  split at h
  · cases h
    simp
  · dsimp only at h
    split at h
    · exact wellFormed_of_expandHead h
    · cases h

/-- Settles O51: the commands of a line are well formed, and decoding undoes encoding. -/
theorem assemblerEmitsNoIllegalWord : Obligations.AssemblerEmitsNoIllegalWord := fun line cmds h =>
  ⟨by rw [assembleWords, h]; rfl, fun i hi => decodeOfEncodeIsTheCommand i (wellFormed_of_assembleLine h i hi)⟩

/-- Settles O6: each word evaluates. -/
theorem exampleWordsDecode : Obligations.ExampleWordsDecode := by
  unfold Obligations.ExampleWordsDecode
  decide

/-- Settles O52: each line evaluates. -/
theorem assemblerExamples : Obligations.AssemblerExamples := by
  unfold Obligations.AssemblerExamples
  decide

end Sys2Proof.Machine
end
